-- ==== Sys2Proof/Word.lean ====
section
/-! DEFINITION. The word, byte and register-number types of lc3vm CORE (spec/00_scope.md R201, R202; spec/10_state.md R11). -/

namespace Sys2Proof

/-- A Word: 16 bits, arithmetic modulo 65536 (R201). Registers, memory cells, addresses and
instructions are Words. -/
abbrev Word := BitVec 16

/-- A byte moved to or from a device, a value 0 to 255 (R48, R49). -/
abbrev Byte := BitVec 8

/-- The number of a general register, 0 to 7 (R11). -/
abbrev Reg := Fin 8

end Sys2Proof
end

