-- ==== Sys2Proof/Syntax.lean ====
section
/-! DEFINITION. The instructions: one constructor per row of spec/opcode_table.json (25 rows; spec/30_encoding.md R52, R53). -/

namespace Sys2Proof

/-- An instruction with its operand fields (R53). The bits of rule R56 that take no part in
decoding are not fields (log 11). Immediates keep their encoded width; they are extended where
they are used (R54). -/
inductive Instr where
  /-- BR: `cond` is `ir[11:9]`, the bits n, z, p (R80). -/
  | br (cond : BitVec 3) (off9 : BitVec 9)
  /-- ADD, register form (R85). -/
  | addReg (dr sr1 sr2 : Reg)
  /-- ADD, immediate form (R86). -/
  | addImm (dr sr1 : Reg) (imm5 : BitVec 5)
  /-- LD (R95). -/
  | ld (dr : Reg) (off9 : BitVec 9)
  /-- ST (R105). -/
  | st (sr : Reg) (off9 : BitVec 9)
  /-- JSR, opcode 4 with `ir[11] = 1` (R116). -/
  | jsr (off11 : BitVec 11)
  /-- JSRR, opcode 4 with `ir[11] = 0` (R117). -/
  | jsrr (base : Reg)
  /-- AND, register form (R87). -/
  | andReg (dr sr1 sr2 : Reg)
  /-- AND, immediate form (R88). -/
  | andImm (dr sr1 : Reg) (imm5 : BitVec 5)
  /-- LDR (R97). -/
  | ldr (dr base : Reg) (off6 : BitVec 6)
  /-- STR (R107). -/
  | str (sr base : Reg) (off6 : BitVec 6)
  /-- RTI, reserved opcode 8 (R150). -/
  | rti
  /-- NOT (R89). -/
  | notReg (dr sr : Reg)
  /-- LDI (R96). -/
  | ldi (dr : Reg) (off9 : BitVec 9)
  /-- STI (R106). -/
  | sti (sr : Reg) (off9 : BitVec 9)
  /-- JMP, and RET with base R7 (R115). -/
  | jmp (base : Reg)
  /-- RES, reserved opcode 13 (R151). -/
  | res
  /-- LEA (R125). -/
  | lea (dr : Reg) (off9 : BitVec 9)
  /-- TRAP, the generic row (R130): the decoder gives it for an unmapped vector only, since the
  service rows win over it (R52). -/
  | trap (vect8 : BitVec 8)
  /-- TRAP x20 (R131). -/
  | getc
  /-- TRAP x21 (R132). -/
  | out
  /-- TRAP x22 (R133). -/
  | puts
  /-- TRAP x23, the service IN (R134). -/
  | inp
  /-- TRAP x24 (R135). -/
  | putsp
  /-- TRAP x25 (R136). -/
  | halt
deriving DecidableEq, Repr

end Sys2Proof
end

