-- ==== Sys2Proof/WellFormed.lean ====
section
/-! DEFINITION. Which instruction terms the encoding admits (spec/30_encoding.md R52, R53, R58). -/

namespace Sys2Proof

/-- The six vectors that name a service, 0x20 to 0x25 (R130). -/
def mappedVectors : List (BitVec 8) := [0x20#8, 0x21#8, 0x22#8, 0x23#8, 0x24#8, 0x25#8]

/-- An instruction is well formed when some Word decodes to it. Field widths are in the types of
Instr; the one check left is that the generic TRAP row does not stand for a mapped vector, whose
service row is the more specific match and wins (R52). -/
def Instr.wf : Instr → Bool
  | .trap vect8 => !mappedVectors.contains vect8
  | .br _ _ | .addReg _ _ _ | .addImm _ _ _ | .ld _ _ | .st _ _ | .jsr _ | .jsrr _
  | .andReg _ _ _ | .andImm _ _ _ | .ldr _ _ _ | .str _ _ _ | .rti | .notReg _ _ | .ldi _ _
  | .sti _ _ | .jmp _ | .res | .lea _ _ | .getc | .out | .puts | .inp | .putsp | .halt => true

end Sys2Proof
end

