-- ==== Sys2Proof/Decode.lean ====
section
/-! DEFINITION. The decoder (total on every Word), the encoder and the opcode table (spec/30_encoding.md R50 to R58, R60; spec/opcode_table.json). -/

namespace Sys2Proof

/-! ### Fields of an instruction Word (R53, R55) -/

/-- `ir[15:12]` (R51). -/
def opcodeOf (ir : Word) : BitVec 4 := ir.extractLsb' 12 4

/-- The register field whose lowest bit is `lo` (R55). -/
def regField (ir : Word) (lo : Nat) : Reg := (ir.extractLsb' lo 3).toFin

/-- `ir[i]` as a Bool (R202). -/
def bitField (ir : Word) (i : Nat) : Bool := ir.getLsbD i

def imm5Of (ir : Word) : BitVec 5 := ir.extractLsb' 0 5
def off6Of (ir : Word) : BitVec 6 := ir.extractLsb' 0 6
def off9Of (ir : Word) : BitVec 9 := ir.extractLsb' 0 9
def off11Of (ir : Word) : BitVec 11 := ir.extractLsb' 0 11
def condOfIr (ir : Word) : BitVec 3 := ir.extractLsb' 9 3
def vect8Of (ir : Word) : BitVec 8 := ir.extractLsb' 0 8

/-! ### The decoder (R58) -/

/-- Opcode 15: the service the vector names, or the generic row (R58, R130). -/
def decodeTrap (vect8 : BitVec 8) : Instr :=
  if vect8 = 0x20#8 then .getc
  else if vect8 = 0x21#8 then .out
  else if vect8 = 0x22#8 then .puts
  else if vect8 = 0x23#8 then .inp
  else if vect8 = 0x24#8 then .putsp
  else if vect8 = 0x25#8 then .halt
  else .trap vect8

/-- `Decode(ir)` of R58. It is total: every Word has exactly one meaning (R51), so nothing is
rejected; the reserved opcodes decode to RTI and RES, whose meaning is fatal. The opcode numbers
are the spec's decision D1 (log 8); the bits of R56 are not read (D5, log 11). -/
def decode (ir : Word) : Instr :=
  match (opcodeOf ir).toNat with
  | 0 => .br (condOfIr ir) (off9Of ir)
  | 1 => if bitField ir 5 then .addImm (regField ir 9) (regField ir 6) (imm5Of ir)
         else .addReg (regField ir 9) (regField ir 6) (regField ir 0)
  | 2 => .ld (regField ir 9) (off9Of ir)
  | 3 => .st (regField ir 9) (off9Of ir)
  | 4 => if bitField ir 11 then .jsr (off11Of ir) else .jsrr (regField ir 6)
  | 5 => if bitField ir 5 then .andImm (regField ir 9) (regField ir 6) (imm5Of ir)
         else .andReg (regField ir 9) (regField ir 6) (regField ir 0)
  | 6 => .ldr (regField ir 9) (regField ir 6) (off6Of ir)
  | 7 => .str (regField ir 9) (regField ir 6) (off6Of ir)
  | 8 => .rti
  | 9 => .notReg (regField ir 9) (regField ir 6)
  | 10 => .ldi (regField ir 9) (off9Of ir)
  | 11 => .sti (regField ir 9) (off9Of ir)
  | 12 => .jmp (regField ir 6)
  | 13 => .res
  | 14 => .lea (regField ir 9) (off9Of ir)
  | _ => decodeTrap (vect8Of ir)

/-- The decoder on the opcode table's numbering of bits: one Word, whose bits above `nbits` are 0.
No instruction is longer than 16 bits (R50). -/
def decodeTableWord (nbits w : Nat) : Option Instr :=
  if nbits ≤ 16 then some (decode (BitVec.ofNat 16 (w % 2 ^ nbits))) else none

/-! ### The encoder (R53, with the canonical values of R56 in the ignored bits) -/

/-- A register number as its 3-bit field (R55). -/
def regBits (r : Reg) : BitVec 3 := BitVec.ofFin r

/-- The canonical Word of an instruction, most significant field first. -/
def encode : Instr → Word
  | .br cond off9 => 0b0000#4 ++ cond ++ off9
  | .addReg dr sr1 sr2 => 0b0001#4 ++ regBits dr ++ regBits sr1 ++ 0b0#1 ++ 0b00#2 ++ regBits sr2
  | .addImm dr sr1 imm5 => 0b0001#4 ++ regBits dr ++ regBits sr1 ++ 0b1#1 ++ imm5
  | .ld dr off9 => 0b0010#4 ++ regBits dr ++ off9
  | .st sr off9 => 0b0011#4 ++ regBits sr ++ off9
  | .jsr off11 => 0b0100#4 ++ 0b1#1 ++ off11
  | .jsrr base => 0b0100#4 ++ 0b0#1 ++ 0b00#2 ++ regBits base ++ 0b000000#6
  | .andReg dr sr1 sr2 => 0b0101#4 ++ regBits dr ++ regBits sr1 ++ 0b0#1 ++ 0b00#2 ++ regBits sr2
  | .andImm dr sr1 imm5 => 0b0101#4 ++ regBits dr ++ regBits sr1 ++ 0b1#1 ++ imm5
  | .ldr dr base off6 => 0b0110#4 ++ regBits dr ++ regBits base ++ off6
  | .str sr base off6 => 0b0111#4 ++ regBits sr ++ regBits base ++ off6
  | .rti => 0b1000#4 ++ 0b000000000000#12
  | .notReg dr sr => 0b1001#4 ++ regBits dr ++ regBits sr ++ 0b111111#6
  | .ldi dr off9 => 0b1010#4 ++ regBits dr ++ off9
  | .sti sr off9 => 0b1011#4 ++ regBits sr ++ off9
  | .jmp base => 0b1100#4 ++ 0b000#3 ++ regBits base ++ 0b000000#6
  | .res => 0b1101#4 ++ 0b000000000000#12
  | .lea dr off9 => 0b1110#4 ++ regBits dr ++ off9
  | .trap vect8 => 0b1111#4 ++ 0b0000#4 ++ vect8
  | .getc => 0b1111#4 ++ 0b0000#4 ++ 0x20#8
  | .out => 0b1111#4 ++ 0b0000#4 ++ 0x21#8
  | .puts => 0b1111#4 ++ 0b0000#4 ++ 0x22#8
  | .inp => 0b1111#4 ++ 0b0000#4 ++ 0x23#8
  | .putsp => 0b1111#4 ++ 0b0000#4 ++ 0x24#8
  | .halt => 0b1111#4 ++ 0b0000#4 ++ 0x25#8

/-! ### The opcode table (spec/opcode_table.json, R52) -/

/-- A row of the table: a Word `w` matches it when `w &&& mask = pattern` (R52). -/
structure Row where
  mask : Word
  pattern : Word
deriving DecidableEq, Repr

/-- Whether a Word matches a row (R52). -/
def Row.matches (r : Row) (w : Word) : Bool := w &&& r.mask == r.pattern

/-- The table's row for an instruction: its `mask` and `match` entries. -/
def rowOf : Instr → Row
  | .br _ _ => ⟨0xF000#16, 0x0000#16⟩
  | .addReg _ _ _ => ⟨0xF020#16, 0x1000#16⟩
  | .addImm _ _ _ => ⟨0xF020#16, 0x1020#16⟩
  | .ld _ _ => ⟨0xF000#16, 0x2000#16⟩
  | .st _ _ => ⟨0xF000#16, 0x3000#16⟩
  | .jsr _ => ⟨0xF800#16, 0x4800#16⟩
  | .jsrr _ => ⟨0xF800#16, 0x4000#16⟩
  | .andReg _ _ _ => ⟨0xF020#16, 0x5000#16⟩
  | .andImm _ _ _ => ⟨0xF020#16, 0x5020#16⟩
  | .ldr _ _ _ => ⟨0xF000#16, 0x6000#16⟩
  | .str _ _ _ => ⟨0xF000#16, 0x7000#16⟩
  | .rti => ⟨0xF000#16, 0x8000#16⟩
  | .notReg _ _ => ⟨0xF000#16, 0x9000#16⟩
  | .ldi _ _ => ⟨0xF000#16, 0xA000#16⟩
  | .sti _ _ => ⟨0xF000#16, 0xB000#16⟩
  | .jmp _ => ⟨0xF000#16, 0xC000#16⟩
  | .res => ⟨0xF000#16, 0xD000#16⟩
  | .lea _ _ => ⟨0xF000#16, 0xE000#16⟩
  | .trap _ => ⟨0xF000#16, 0xF000#16⟩
  | .getc => ⟨0xF0FF#16, 0xF020#16⟩
  | .out => ⟨0xF0FF#16, 0xF021#16⟩
  | .puts => ⟨0xF0FF#16, 0xF022#16⟩
  | .inp => ⟨0xF0FF#16, 0xF023#16⟩
  | .putsp => ⟨0xF0FF#16, 0xF024#16⟩
  | .halt => ⟨0xF0FF#16, 0xF025#16⟩

end Sys2Proof
end

