-- ==== Sys2Proof/Config.lean ====
section
/-! DEFINITION. The open parameters of the spec (spec/00_scope.md R208): named arguments of the model, held in the machine's state. -/

namespace Sys2Proof

/-- The three parameters R208 marks OPEN. A claim over all states holds for all their values; the
spec's defaults are `Machine.defaultConfig` (log 7). -/
structure Config where
  /-- PC_START, the configured start address (D6). -/
  pcStart : Word
  /-- IN_PROMPT, the bytes IN writes before it waits (D9). -/
  inPrompt : List Byte
  /-- HALT_NOTICE, the bytes HALT writes before the machine stops (D9). -/
  haltNotice : List Byte
deriving DecidableEq, Repr

end Sys2Proof
end

