-- ==== Sys2Proof/Machine/Constants.lean ====
section
/-! DEFINITION. The numbers the spec fixes by decision or gives as defaults: flag values (R15), device addresses (R32), parameter defaults (R208). -/

namespace Sys2Proof.Machine

/-- FLAG_POS (R15; the number is decision D2, log 9). -/
def flagPos : Word := 0x0001#16

/-- FLAG_ZERO (R15; the number is decision D2, log 9). -/
def flagZero : Word := 0x0002#16

/-- FLAG_NEG (R15; the number is decision D2, log 9). -/
def flagNeg : Word := 0x0004#16

/-- KBSR_ADDR, the keyboard status cell (R32; the number is decision D3, log 10). -/
def kbsrAddr : Word := 0xFE00#16

/-- KBDR_ADDR, the keyboard data cell (R32; the number is decision D3, log 10). -/
def kbdrAddr : Word := 0xFE02#16

/-- What a KBSR read leaves in KBSR when a byte was ready: bit 15 set, the rest 0 (R31, D4). -/
def kbsrReady : Word := 0x8000#16

/-- The link register R7 (R11). -/
def linkReg : Reg := 7

/-- The argument and result register of the trap services, R0 (R11). -/
def serviceReg : Reg := 0

/-- The default of IN_PROMPT: the 19 bytes of "Enter a character: " (R208, D9; log 7). -/
def defaultInPrompt : List Byte :=
  [0x45#8, 0x6E#8, 0x74#8, 0x65#8, 0x72#8, 0x20#8, 0x61#8, 0x20#8, 0x63#8, 0x68#8,
   0x61#8, 0x72#8, 0x61#8, 0x63#8, 0x74#8, 0x65#8, 0x72#8, 0x3A#8, 0x20#8]

/-- The default of HALT_NOTICE: "HALT" and 0x0A (R208, D9; log 7). -/
def defaultHaltNotice : List Byte := [0x48#8, 0x41#8, 0x4C#8, 0x54#8, 0x0A#8]

/-- The spec's defaults of the open parameters (R208; log 7). -/
def defaultConfig : Config where
  pcStart := 0x3000#16
  inPrompt := defaultInPrompt
  haltNotice := defaultHaltNotice

end Sys2Proof.Machine
end

