-- ==== Sys2Proof/Machine/State.lean ====
section
/-! DEFINITION. The machine's state as plain data, its reset value, and the reasons a step can stop (spec/10_state.md; spec/60_exceptions.md R160). -/

namespace Sys2Proof.Machine

/-- A memory cell that is not 0x0000: its address and its Word. The Word is the smallest
addressable unit (R20, R34; log 1). -/
abbrev Cell := Nat × Word

/-- Memory as the list of its cells that are not 0x0000, addresses strictly rising
(`Memory.wf`). An unlisted cell reads 0x0000, the spec's reset contents (R23). -/
abbrev Memory := List Cell

/-- The kinds of terminal transition (R160). -/
inductive HaltKind where
  /-- TRAP x25, the normal end (R165). -/
  | haltRequested
  /-- A reserved opcode (R162). -/
  | invalidOpcode
  /-- A TRAP with an unmapped vector (R163). -/
  | invalidTrapVector
  /-- A failing device operation (R164). -/
  | hostIOError
  /-- The cancellation request (R166). -/
  | cancelled
deriving DecidableEq, Repr

/-- The state of the Execution Loop (R19). -/
inductive RunState where
  | running
  | halted (kind : HaltKind)
deriving DecidableEq, Repr

/-- One answer of the input device (R48). The core sees a device only through the answers to
`In.poll()` and `In.read()`; a list of these gives every sequence of answers the contract of R48
and D22 allows (log 3). -/
inductive InputEvent where
  /-- A byte that can be taken now: a poll answers true and leaves it, a read takes it. -/
  | byte (b : Byte)
  /-- No byte yet: a poll answers false and the device moves on; a read waits past it. -/
  | notYet
  /-- The next operation fails, be it a poll or a read. -/
  | fails
  /-- A poll answers true, and the read after it fails. -/
  | readFails
  /-- From here on the same byte is available at every operation, for ever (log 4). -/
  | endless (b : Byte)
deriving DecidableEq, Repr

/-- The whole state: the core's own state (10_state.md section 1), then the environment of R21 as
data the step consumes, then the open parameters of R208. -/
structure State where
  /-- R0 to R7 (R10). -/
  regs : Vector Word 8
  /-- PC, the address of the next instruction to fetch (R12). -/
  pc : Word
  /-- COND (R15). -/
  cond : Word
  /-- Mem, the 65536 Words (R20). -/
  mem : Memory
  /-- RunState (R19). -/
  runState : RunState
  /-- The bytes handed to the output device so far, in call order (R49). -/
  output : List Byte
  /-- What the input device will answer, the next answer first; after the last one no byte is ever
  available (R48; log 3). -/
  input : List InputEvent
  /-- How many more bytes the output device accepts before it fails; none: it never fails
  (R49, R164; log 6). -/
  outputFailsAfter : Option Nat
  /-- How many more step boundaries pass before the cancellation request is seen raised; some 0: it
  is raised now; none: it never is (R166; log 5). -/
  cancelAfter : Option Nat
  /-- The open parameters (R208; log 7). -/
  config : Config
deriving DecidableEq, Repr

/-- Why a step has no next state. Each is a case in which the spec gives none; all are safe. -/
inductive Fault where
  /-- Raised by `step`: the machine is in a terminal state and takes no step (R73). Safe. -/
  | alreadyHalted (kind : HaltKind)
  /-- Raised by GETC and IN: the read waits for a byte the device never delivers, so the step does
  not complete (R75; U6 `stuck`). `waiting` is the state in which it waits. Safe (log 3). -/
  | awaitingInput (waiting : State)
  /-- Raised by PUTS and PUTSP: no Word equal to 0 is ever read, so the instruction does not
  complete (R133, R135; U7 `stuck`). Safe (log 12). -/
  | unterminatedString
deriving DecidableEq, Repr

/-- Why an action has no meaning in the model. -/
inductive Refusal where
  /-- Raised by an arm of `exec` that has no meaning yet. No arm raises it. Safe. -/
  | notModelled (mnemonic : String)
  /-- Raised by the loader: a sequence of more than 65536 Words is outside the contract (R46, D18,
  U15). No instruction raises it. Safe. -/
  | imageTooLong
deriving DecidableEq, Repr

/-- What one operation inside an instruction comes to: a value and the state after it, a terminal
transition already made (R161: the rest of the pseudocode is not executed), or no end at all. -/
inductive Result (α : Type) where
  | done (value : α) (s : State)
  | raised (s : State)
  | stuck (f : Fault)
deriving DecidableEq, Repr

/-- `Start()` after `Reset(PC_START)` and the loader's calls, which left memory as `m` (R23, R190):
the state the first instruction sees. The environment's fields say that no byte comes, no output
fails and no cancellation is requested (log 3, 5, 6). -/
def State.start (c : Config) (m : Memory) : State where
  regs := Vector.replicate 8 0x0000#16
  pc := c.pcStart
  cond := flagZero
  mem := m
  runState := .running
  output := []
  input := []
  outputFailsAfter := none
  cancelAfter := none
  config := c

/-- The machine right after reset and start, nothing loaded, default parameters (R23, R190). -/
def State.reset : State := State.start defaultConfig []

end Sys2Proof.Machine
end

