-- ==== Sys2Proof/Machine/Ops.lean ====
section
/-! DEFINITION. The named operations over registers, memory, devices and RunState that every meaning is built from (spec/10_state.md R10; spec/20_memory.md R30 to R49; spec/60_exceptions.md R161). -/

namespace Sys2Proof.Machine

/-! ### Chaining operations (R71: in the order written; R161: nothing after a raise) -/

/-- Run `k` on the value and state of a finished operation; a terminal transition or an endless wait
ends the instruction there (R161). -/
def Result.bind {α β : Type} (r : Result α) (k : α → State → Result β) : Result β :=
  match r with
  | .done v s => k v s
  | .raised s => .raised s
  | .stuck f => .stuck f

/-- As `bind`, into the outcome of a step: a terminal transition is a next state, whose RunState
says which kind it is. -/
def Result.andThen {α : Type} (r : Result α)
    (k : α → State → Host.Outcome State Fault Refusal) : Host.Outcome State Fault Refusal :=
  match r with
  | .done v s => k v s
  | .raised s => .next s
  | .stuck f => .fault f

/-- The outcome of an instruction whose last operation this is. -/
def Result.outcome (r : Result Unit) : Host.Outcome State Fault Refusal :=
  r.andThen fun _ s => .next s

/-! ### Registers (R10, R12, R15) -/

/-- `R[i]`: no register is hard-wired (R10). -/
def State.reg (s : State) (r : Reg) : Word := s.regs.get r

/-- `R[i] <- v` (R10). -/
def State.setReg (s : State) (r : Reg) (v : Word) : State := { s with regs := s.regs.set r v }

/-- `PC <- v` (R12). -/
def State.setPc (s : State) (v : Word) : State := { s with pc := v }

/-- `COND <- v` (R15). -/
def State.setCond (s : State) (v : Word) : State := { s with cond := v }

/-- The link write of JSR, JSRR and TRAP: `R[7] <- PC`, with no `SetCC` after it (R17, C1). -/
def State.link (s : State) : State := s.setReg linkReg s.pc

/-! ### The memory array (R20) -/

/-- `Mem[a]`, with no side effect; an unlisted cell holds 0x0000 (R20, R23). -/
def Memory.read : Memory → Nat → Word
  | [], _ => 0x0000#16
  | (b, w) :: rest, a => if a = b then w else Memory.read rest a

/-- Drop what the list says of address `a`. -/
def Memory.clear (m : Memory) (a : Nat) : Memory := m.filter fun c => c.1 != a

/-- Put a cell at its place among rising addresses. -/
def Memory.place : Memory → Nat → Word → Memory
  | [], a, v => [(a, v)]
  | (b, w) :: rest, a, v =>
    if a < b then (a, v) :: (b, w) :: rest else (b, w) :: Memory.place rest a v

/-- `Mem[a] <- v`, keeping the canonical form: a cell that becomes 0x0000 is not listed. -/
def Memory.write (m : Memory) (a : Nat) (v : Word) : Memory :=
  if v = 0x0000#16 then m.clear a else (m.clear a).place a v

/-- The canonical form: addresses below 65536 and strictly rising, no listed cell 0x0000. -/
abbrev Memory.wf (m : Memory) : Prop :=
  m.Pairwise (fun x y => x.1 < y.1) ∧ ∀ c ∈ m, c.1 < 65536 ∧ c.2 ≠ 0x0000#16

/-- The stored Word at an address (R20). -/
def State.cell (s : State) (a : Word) : Word := s.mem.read a.toNat

/-- `MemWrite(a, 1, v)`: a plain store at every address, no device action (R33). -/
def State.store (s : State) (a : Word) (v : Word) : State :=
  { s with mem := s.mem.write a.toNat v }

/-! ### The terminal transition (R161): the one way an error, a HALT or a cancellation is taken -/

/-- `raise X`: RunState <- Halted(X), nothing else (R161, R168). Nothing returns from it (R169). -/
def State.raise (s : State) (k : HaltKind) : State := { s with runState := .halted k }

/-- The number of a RunState on the status output (R160, D15; log 20). -/
def RunState.status : RunState → Nat
  | .running => 0
  | .halted .haltRequested => 1
  | .halted .invalidOpcode => 2
  | .halted .invalidTrapVector => 3
  | .halted .hostIOError => 4
  | .halted .cancelled => 5

/-! ### The environment's data (R21): what the devices and the request line will do next -/

/-- The input device's answers from here on. -/
def State.setInput (s : State) (script : List InputEvent) : State := { s with input := script }

/-- The output device has taken a byte: it is the last of the output so far (R49). -/
def State.emit (s : State) (b : Byte) : State := { s with output := s.output ++ [b] }

/-- How many more bytes the output device accepts. -/
def State.setOutputFails (s : State) (n : Option Nat) : State := { s with outputFailsAfter := n }

/-- How many more step boundaries pass before the cancellation request is seen. -/
def State.setCancel (s : State) (n : Option Nat) : State := { s with cancelAfter := n }

/-! ### The input device (R48) -/

/-- `In.poll()`: whether the next byte can be taken now. It never waits (R48). -/
def inPoll (s : State) : Result Bool :=
  match s.input with
  | [] => .done false s
  | .byte _ :: _ => .done true s
  | .notYet :: rest => .done false (s.setInput rest)
  | .fails :: _ => .raised (s.raise .hostIOError)
  | .readFails :: _ => .done true s
  | .endless _ :: _ => .done true s

/-- What a read that may wait comes to: a byte and what the device answers after it, a failure, or
an endless wait. -/
inductive ReadAnswer where
  | byte (b : Byte) (rest : List InputEvent)
  | fails
  | never
deriving DecidableEq, Repr

/-- The next byte of a script, waiting past the moments at which none is there (R48, R75). -/
def takeByte : List InputEvent → ReadAnswer
  | [] => .never
  | .byte b :: rest => .byte b rest
  | .notYet :: rest => takeByte rest
  | .fails :: _ => .fails
  | .readFails :: _ => .fails
  | .endless b :: rest => .byte b (.endless b :: rest)

/-- `In.read()`: take the next byte, waiting for it (R48). A failure is HostIOError and delivers no
byte (R164); a byte that never comes leaves the step without an end (R75, U6). -/
def inRead (s : State) : Result Byte :=
  match takeByte s.input with
  | .byte b rest => .done b (s.setInput rest)
  | .fails => .raised (s.raise .hostIOError)
  | .never => .stuck (.awaitingInput s)

/-! ### The output device (R49) -/

/-- `Out.write(b)`: the device takes the byte, or fails, which is HostIOError (R49, R164). -/
def outWrite (b : Byte) (s : State) : Result Unit :=
  match s.outputFailsAfter with
  | none => .done () (s.emit b)
  | some 0 => .raised (s.raise .hostIOError)
  | some (n + 1) => .done () ((s.emit b).setOutputFails (some n))

/-- Bytes written one after the other; the first failure ends it (R138, R164). -/
def outWriteAll : List Byte → State → Result Unit
  | [], s => .done () s
  | b :: rest, s => (outWrite b s).bind fun _ s1 => outWriteAll rest s1

/-! ### Memory reads (R31) -/

/-- `zext_8(b)` (R204). -/
def zext8 (b : Byte) : Word := b.setWidth 16

/-- The device action of a KBSR read (R31): poll; if a byte is there, KBSR <- 0x8000, then KBDR <-
the byte; if not, KBSR <- 0x0000. Assignments, not ORs (D4, log 13). -/
def pollKeyboard (s : State) : Result Unit :=
  (inPoll s).bind fun ready s1 =>
    if ready then
      (inRead (s1.store kbsrAddr kbsrReady)).bind fun b s2 => .done () (s2.store kbdrAddr (zext8 b))
    else .done () (s1.store kbsrAddr 0x0000#16)

/-- `MemRead(a, 1)`: the KBSR check on every read, then the stored Word (R31, R47). -/
def memRead (a : Word) (s : State) : Result Word :=
  if a = kbsrAddr then (pollKeyboard s).bind fun _ s1 => .done (s1.cell a) s1
  else .done (s.cell a) s

/-! ### The parts of a step around the instruction (R70) -/

/-- The sample of the cancellation request at the top of a step (R70, R166): raised, it is the whole
step; otherwise one more step boundary has passed. -/
def sampleCancel (s : State) : Result Unit :=
  match s.cancelAfter with
  | none => .done () s
  | some 0 => .raised (s.raise .cancelled)
  | some (n + 1) => .done () (s.setCancel (some n))

/-- `ir <- MemRead(PC, 1); PC <- PC + 1` (R70, R74). A fetch that fails leaves PC as it was. -/
def fetch (s : State) : Result Word :=
  (memRead s.pc s).bind fun ir s1 => .done ir (s1.setPc (s1.pc + 1#16))

end Sys2Proof.Machine
end

