-- ==== Sys2Proof/Machine/Flags.lean ====
section
/-! DEFINITION. The condition-flag derivation and its test (spec/10_state.md R15, R16; spec/41_branch.md R80). -/

namespace Sys2Proof.Machine

/-- The flag that describes a Word (R16). -/
def condOf (v : Word) : Word :=
  if v = 0x0000#16 then flagZero else if v.getLsbD 15 then flagNeg else flagPos

/-- `SetCC(i)`: COND from the Word now in `R[i]` (R16). -/
def State.setCC (s : State) (r : Reg) : State := s.setCond (condOf (s.reg r))

/-- Define a register (00_scope.md, glossary): write the result, then `SetCC` from the register. -/
def State.define (s : State) (dr : Reg) (v : Word) : State := (s.setReg dr v).setCC dr

/-- `(cond & COND) != 0`, the field taken as a number (R80). -/
def condMet (cond : BitVec 3) (s : State) : Bool := cond.setWidth 16 &&& s.cond != 0x0000#16

end Sys2Proof.Machine
end

