-- ==== Sys2Proof/Machine/Operands.lean ====
section
/-! DEFINITION. The operand forms: sign extension and the effective addresses (spec/00_scope.md R203; spec/30_encoding.md R54, R55; spec/20_memory.md R45). -/

namespace Sys2Proof.Machine

/-- `sext_k(x)`: bit k-1 of `x` copied into bits 15 to k (R203). The instruction set uses k = 5, 6, 9
and 11. -/
def sext {k : Nat} (x : BitVec k) : Word := x.signExtend 16

/-- The immediate operand of ADD and AND, `sext_5(imm5)` (R55). -/
def immOperand (imm5 : BitVec 5) : Word := sext imm5

/-- The PC-relative address of LD, LDI, LEA, ST, STI and BR: PC is the incremented PC, and the sum
wraps (R45, R54, R72). -/
def pcRel9 (s : State) (off9 : BitVec 9) : Word := s.pc + sext off9

/-- The PC-relative target of JSR (R54, R116). -/
def pcRel11 (s : State) (off11 : BitVec 11) : Word := s.pc + sext off11

/-- The base-plus-offset address of LDR and STR (R45, R54). -/
def baseOff6 (s : State) (base : Reg) (off6 : BitVec 6) : Word := s.reg base + sext off6

/-- Bits [7:0] of a Word (R132, R133, R135). -/
def lowByte (w : Word) : Byte := w.extractLsb' 0 8

/-- Bits [15:8] of a Word (R135). -/
def highByte (w : Word) : Byte := w.extractLsb' 8 8

end Sys2Proof.Machine
end

