-- ==== Sys2Proof/Machine/Control.lean ====
section
/-! DEFINITION. BR, JMP, JSR and JSRR (spec/41_branch.md R80; spec/45_jump.md R115 to R117). PC is already the incremented PC. -/

namespace Sys2Proof.Machine

/-- BR (R80). -/
def execBr (cond : BitVec 3) (off9 : BitVec 9) (s : State) : Host.Outcome State Fault Refusal :=
  .next (if condMet cond s then s.setPc (pcRel9 s off9) else s)

/-- JMP; RET is JMP R7 (R115). -/
def execJmp (base : Reg) (s : State) : Host.Outcome State Fault Refusal :=
  .next (s.setPc (s.reg base))

/-- JSR (R116): the link write, then the PC-relative jump. -/
def execJsr (off11 : BitVec 11) (s : State) : Host.Outcome State Fault Refusal :=
  .next (s.link.setPc (pcRel11 s.link off11))

/-- JSRR (R117): the link write first, then the base is read, so JSRR R7 does not jump (D16, log
16). -/
def execJsrr (base : Reg) (s : State) : Host.Outcome State Fault Refusal :=
  .next (s.link.setPc (s.link.reg base))

end Sys2Proof.Machine
end

