-- ==== Sys2Proof/Machine/Loads.lean ====
section
/-! DEFINITION. LD, LDI and LDR (spec/43_load.md R95 to R97). Every read is `memRead`, so a read of KBSR polls the keyboard. -/

namespace Sys2Proof.Machine

/-- LD (R95). -/
def execLd (dr : Reg) (off9 : BitVec 9) (s : State) : Host.Outcome State Fault Refusal :=
  (memRead (pcRel9 s off9) s).andThen fun v s1 => .next (s1.define dr v)

/-- LDI (R96): the pointer, then the data. -/
def execLdi (dr : Reg) (off9 : BitVec 9) (s : State) : Host.Outcome State Fault Refusal :=
  (memRead (pcRel9 s off9) s).andThen fun p s1 =>
    (memRead p s1).andThen fun v s2 => .next (s2.define dr v)

/-- LDR (R97): the flags are those of the destination register, as for every load (D12, log 15). -/
def execLdr (dr base : Reg) (off6 : BitVec 6) (s : State) : Host.Outcome State Fault Refusal :=
  (memRead (baseOff6 s base off6) s).andThen fun v s1 => .next (s1.define dr v)

end Sys2Proof.Machine
end

