-- ==== Sys2Proof/Machine/Operate.lean ====
section
/-! DEFINITION. ADD, AND, NOT and LEA (spec/42_operate.md R85 to R90; spec/46_lea.md R125). -/

namespace Sys2Proof.Machine

/-- ADD, register form (R85): both sources are read before the write. -/
def execAddReg (dr sr1 sr2 : Reg) (s : State) : Host.Outcome State Fault Refusal :=
  .next (s.define dr (s.reg sr1 + s.reg sr2))

/-- ADD, immediate form (R86). -/
def execAddImm (dr sr1 : Reg) (imm5 : BitVec 5) (s : State) : Host.Outcome State Fault Refusal :=
  .next (s.define dr (s.reg sr1 + immOperand imm5))

/-- AND, register form (R87). -/
def execAndReg (dr sr1 sr2 : Reg) (s : State) : Host.Outcome State Fault Refusal :=
  .next (s.define dr (s.reg sr1 &&& s.reg sr2))

/-- AND, immediate form (R88). -/
def execAndImm (dr sr1 : Reg) (imm5 : BitVec 5) (s : State) : Host.Outcome State Fault Refusal :=
  .next (s.define dr (s.reg sr1 &&& immOperand imm5))

/-- NOT (R89). -/
def execNot (dr sr : Reg) (s : State) : Host.Outcome State Fault Refusal :=
  .next (s.define dr (~~~ s.reg sr))

/-- LEA (R125): no memory access, and it sets the flags. -/
def execLea (dr : Reg) (off9 : BitVec 9) (s : State) : Host.Outcome State Fault Refusal :=
  .next (s.define dr (pcRel9 s off9))

end Sys2Proof.Machine
end

