-- ==== Sys2Proof/Machine/Reserved.lean ====
section
/-! DEFINITION. The reserved opcodes RTI and RES (spec/48_reserved.md R150, R151). -/

namespace Sys2Proof.Machine

/-- RTI (R150): fatal, InvalidOpcode; it returns from nothing and restores nothing (R169). -/
def execRti (s : State) : Host.Outcome State Fault Refusal := .next (s.raise .invalidOpcode)

/-- RES (R151): fatal, InvalidOpcode. -/
def execRes (s : State) : Host.Outcome State Fault Refusal := .next (s.raise .invalidOpcode)

end Sys2Proof.Machine
end

