-- ==== Sys2Proof/Machine/Stores.lean ====
section
/-! DEFINITION. ST, STI and STR (spec/44_store.md R105 to R107). A write has no side effect at any address. -/

namespace Sys2Proof.Machine

/-- ST (R105). -/
def execSt (sr : Reg) (off9 : BitVec 9) (s : State) : Host.Outcome State Fault Refusal :=
  .next (s.store (pcRel9 s off9) (s.reg sr))

/-- STI (R106): the pointer is an ordinary read, the KBSR check applies to it. -/
def execSti (sr : Reg) (off9 : BitVec 9) (s : State) : Host.Outcome State Fault Refusal :=
  (memRead (pcRel9 s off9) s).andThen fun p s1 => .next (s1.store p (s1.reg sr))

/-- STR (R107). -/
def execStr (sr base : Reg) (off6 : BitVec 6) (s : State) : Host.Outcome State Fault Refusal :=
  .next (s.store (baseOff6 s base off6) (s.reg sr))

end Sys2Proof.Machine
end

