-- ==== Sys2Proof/Machine/Traps.lean ====
section
/-! DEFINITION. TRAP and its six hard-wired services (spec/47_trap.md R130 to R138). Each service runs after the link write of R130 and never changes PC. -/

namespace Sys2Proof.Machine

/-! ### The services -/

/-- GETC (R131). -/
def getcService (s : State) : Result Unit :=
  (inRead s).bind fun b s1 => .done () (s1.define serviceReg (zext8 b))

/-- OUT (R132). -/
def outService (s : State) : Result Unit := outWrite (lowByte (s.reg serviceReg)) s

/-- What PUTS writes for a Word that is not the terminator (R133). -/
def putsBytes (w : Word) : List Byte := [lowByte w]

/-- What PUTSP writes for a Word that is not the terminator: the low byte, then the high byte if it
is not zero (R135). -/
def putspBytes (w : Word) : List Byte :=
  if highByte w = 0x00#8 then [lowByte w] else [lowByte w, highByte w]

/-- The loop of PUTS and PUTSP: read a Word at `a`, stop at 0x0000, else write its bytes and go on at
`a + 1`, wrapping (R133, R135; reads by `memRead`, D10). The first argument counts the reads left. -/
def walkString (bytesOf : Word → List Byte) : Nat → Word → State → Result Unit
  | 0, _, _ => .stuck .unterminatedString
  | n + 1, a, s =>
    (memRead a s).bind fun w s1 =>
      if w = 0x0000#16 then .done () s1
      else (outWriteAll (bytesOf w) s1).bind fun _ s2 => walkString bytesOf n (a + 1#16) s2

/-- How many reads decide whether the loop ends. Each 65536 reads in a row hold one KBSR read; it
finds no byte (and is the terminator), fails, uses up one answer of the script, or meets an endless
supply, after which memory no longer changes and 65536 more reads without a zero Word mean that
none ever comes. An output device that fails after `k` more bytes ends the loop by the Word after
them, since every Word read writes a byte (R164): its count is added, so that the loop is cut only
where it has no end (U7; log 12). -/
def stringReads (s : State) : Nat :=
  65536 * (s.input.length + 1) + s.outputFailsAfter.elim 0 fun k => k + 1

/-- PUTS (R133). -/
def putsService (s : State) : Result Unit :=
  walkString putsBytes (stringReads s) (s.reg serviceReg) s

/-- PUTSP (R135). -/
def putspService (s : State) : Result Unit :=
  walkString putspBytes (stringReads s) (s.reg serviceReg) s

/-- IN (R134): the whole prompt, the wait for the byte, the echo, the register write (D17). -/
def inService (s : State) : Result Unit :=
  (outWriteAll s.config.inPrompt s).bind fun _ s1 =>
    (inRead s1).bind fun b s2 =>
      (outWrite b s2).bind fun _ s3 => .done () (s3.define serviceReg (zext8 b))

/-- HALT (R136): the notice, then the terminal transition. -/
def haltService (s : State) : Result Unit :=
  (outWriteAll s.config.haltNotice s).bind fun _ s1 => .raised (s1.raise .haltRequested)

/-- The dispatch of R130 on the whole low byte; an unmapped vector is InvalidTrapVector (R137). -/
def trapDispatch (vect8 : BitVec 8) (s : State) : Result Unit :=
  if vect8 = 0x20#8 then getcService s
  else if vect8 = 0x21#8 then outService s
  else if vect8 = 0x22#8 then putsService s
  else if vect8 = 0x23#8 then inService s
  else if vect8 = 0x24#8 then putspService s
  else if vect8 = 0x25#8 then haltService s
  else .raised (s.raise .invalidTrapVector)

/-! ### The instructions -/

/-- TRAP, the generic row (R130, R137): the link write comes first, for every vector (D21). -/
def execTrap (vect8 : BitVec 8) (s : State) : Host.Outcome State Fault Refusal :=
  (trapDispatch vect8 s.link).outcome

/-- TRAP x20 (R131). -/
def execGetc (s : State) : Host.Outcome State Fault Refusal := (getcService s.link).outcome

/-- TRAP x21 (R132). -/
def execOut (s : State) : Host.Outcome State Fault Refusal := (outService s.link).outcome

/-- TRAP x22 (R133). -/
def execPuts (s : State) : Host.Outcome State Fault Refusal := (putsService s.link).outcome

/-- TRAP x23 (R134). -/
def execIn (s : State) : Host.Outcome State Fault Refusal := (inService s.link).outcome

/-- TRAP x24 (R135). -/
def execPutsp (s : State) : Host.Outcome State Fault Refusal := (putspService s.link).outcome

/-- TRAP x25 (R136). -/
def execHalt (s : State) : Host.Outcome State Fault Refusal := (haltService s.link).outcome

end Sys2Proof.Machine
end

