-- ==== Sys2Proof/Machine/Cycle.lean ====
section
/-! DEFINITION. The step of a running machine (spec/40_instruction_cycle.md R70). -/

namespace Sys2Proof.Machine

/-- `Step()` of R70: sample the cancellation request, fetch, advance PC, decode, execute. -/
def runCycle (s : State) : Host.Outcome State Fault Refusal :=
  (sampleCancel s).andThen fun _ s1 => (fetch s1).andThen fun ir s2 => exec (decode ir) s2

/-- The state with an instruction Word stored where PC points; bits above `nbits` are 0. Used by
`State.withFetchWord`. -/
def placeWord (s : State) (nbits w : Nat) : State :=
  s.store s.pc (BitVec.ofNat 16 (w % 2 ^ nbits))

end Sys2Proof.Machine
end

