-- ==== Sys2Proof/Machine/Step.lean ====
section
/-! DEFINITION. One step of the machine (spec/40_instruction_cycle.md R70, R73), and the placing of one instruction where the next fetch reads. -/

namespace Sys2Proof.Machine

/-- One step. A halted machine takes none (R73): it is stuck, by name. -/
def step (s : State) : Host.Outcome State Fault Refusal :=
  match s.runState with
  | .running => runCycle s
  | .halted kind => .fault (.alreadyHalted kind)

/-- The state with an instruction of `nbits` bits stored at PC, where the next step fetches. A fetch
from KBSR_ADDR reads the device instead (R74), so there the Word cannot be placed (log 19). -/
def State.withFetchWord (s : State) (nbits w : Nat) : State := placeWord s nbits w

end Sys2Proof.Machine
end

