-- ==== Sys2Proof/Machine/Loader.lean ====
section
/-! DEFINITION. The loader port and the boot sequence (spec/20_memory.md R46; spec/70_reset_and_hazards.md R190, R191). -/

namespace Sys2Proof.Machine

/-- `populate(origin, words)`: each Word at the next address, wrapping; plain stores, the rest of
memory untouched (R46). -/
def populate : Word → List Word → Memory → Memory
  | _, [], m => m
  | origin, w :: rest, m => populate (origin + 1#16) rest (m.write origin.toNat w)

/-- One call of the loader port; more than 65536 Words is outside the contract (R46, D18). -/
def loadImage (origin : Word) (words : List Word) (m : Memory) : Except Refusal Memory :=
  if words.length ≤ 65536 then .ok (populate origin words m) else .error .imageTooLong

/-- The loader's calls before the start, in order; a later one overwrites (R46). -/
def loadImages : List (Word × List Word) → Memory → Except Refusal Memory
  | [], m => .ok m
  | (origin, words) :: rest, m =>
    match loadImage origin words m with
    | .ok m1 => loadImages rest m1
    | .error e => .error e

/-- `Reset(PC_START)`, the loader's calls, `Start()` (R190). `populate` exists only here, before the
start (D18). -/
def boot (c : Config) (images : List (Word × List Word)) : Except Refusal State :=
  match loadImages images [] with
  | .ok m => .ok (State.start c m)
  | .error e => .error e

end Sys2Proof.Machine
end

