-- ==== Sys2Proof/Safety.lean ====
section
/-! DEFINITION. The terms the statements use: the machine's invariant, what a safe run is, and what it means for an instruction to leave a part of the state alone. -/

namespace Sys2Proof.Machine

/-! ### The invariant -/

/-- COND holds one of the three flags, as it does from the first fetch on (R15). -/
abbrev State.condLegal (s : State) : Prop :=
  s.cond = flagPos ∨ s.cond = flagZero ∨ s.cond = flagNeg

/-- What holds of every state a run reaches: memory is in its canonical form and COND is legal. -/
abbrev State.inv (s : State) : Prop := s.mem.wf ∧ s.condLegal

/-! ### Safe runs -/

/-- The fatal kinds: the terminal transitions that are neither the requested HALT nor the
cancellation (R160). -/
def HaltKind.fatal : HaltKind → Bool
  | .invalidOpcode | .invalidTrapVector | .hostIOError => true
  | .haltRequested | .cancelled => false

/-- The machine has ended by a fatal transition. -/
def State.fatallyHalted (s : State) : Bool :=
  match s.runState with
  | .running => false
  | .halted kind => kind.fatal

/-- No fatal transition is made in the first `n` steps. A step with no next state (a terminal state,
a wait without end) makes none. -/
def State.safeFor : Nat → State → Prop
  | 0, s => s.fatallyHalted = false
  | n + 1, s =>
    s.fatallyHalted = false ∧
      match step s with
      | .next t => State.safeFor n t
      | .fault _ => True
      | .refused _ => False

/-- `n` steps from `s`, each with a next state, lead to `t`. -/
def stepsTo : Nat → State → State → Prop
  | 0, s, t => t = s
  | n + 1, s, t => ∃ u, step s = .next u ∧ stepsTo n u t

/-! ### Frames -/

/-- Every general register outside `rs` is unchanged. -/
abbrev SameRegsBut (rs : List Reg) (s t : State) : Prop := ∀ r, r ∉ rs → t.reg r = s.reg r

/-- Every memory cell outside `as` reads as before. -/
abbrev SameCellsBut (as : List Word) (s t : State) : Prop := ∀ a, a ∉ as → t.cell a = s.cell a

/-- The devices are where they were: nothing read, nothing written. -/
abbrev SameDevices (s t : State) : Prop :=
  t.input = s.input ∧ t.output = s.output ∧ t.outputFailsAfter = s.outputFailsAfter

/-- The output device has been given nothing. -/
abbrev SameOutput (s t : State) : Prop :=
  t.output = s.output ∧ t.outputFailsAfter = s.outputFailsAfter

/-- RunState, the cancellation request and the parameters are unchanged. -/
abbrev SameControl (s t : State) : Prop :=
  t.runState = s.runState ∧ t.cancelAfter = s.cancelAfter ∧ t.config = s.config

/-- The flag that describes a Word, said of the Word as a number (R16). -/
abbrev FlagDescribes (v : Word) (flag : Word) : Prop :=
  (v.toNat = 0 → flag = flagZero) ∧ (0 < v.toNat ∧ v.toNat < 32768 → flag = flagPos) ∧
    (32768 ≤ v.toNat → flag = flagNeg)

/-- `t` is `s` with `v` defined in `dr` (the register and COND): no other register, no cell outside
`as`, not PC, RunState, the cancellation request or the parameters. -/
abbrev DefinesOnly (dr : Reg) (v : Word) (as : List Word) (s t : State) : Prop :=
  t.reg dr = v ∧ FlagDescribes v t.cond ∧ SameRegsBut [dr] s t ∧ t.pc = s.pc ∧
    SameCellsBut as s t ∧ SameControl s t

/-- `t` is `s` with `v` stored at `a` and nothing else changed. -/
abbrev StoresOnly (a : Word) (v : Word) (s t : State) : Prop :=
  t.cell a = v ∧ SameCellsBut [a] s t ∧ SameRegsBut [] s t ∧ t.pc = s.pc ∧ t.cond = s.cond ∧
    SameDevices s t ∧ SameControl s t

/-- `t` is `s` with PC and the registers `rs` changed and nothing else. -/
abbrev JumpsOnly (rs : List Reg) (s t : State) : Prop :=
  SameRegsBut rs s t ∧ t.cond = s.cond ∧ SameCellsBut [] s t ∧ SameDevices s t ∧ SameControl s t

/-- What every TRAP leaves: R7 is the return address, the registers outside `rs` and the cells
outside `as` are unchanged, and so are PC, the request and the parameters (R130, R138). -/
abbrev TrapFrame (rs : List Reg) (as : List Word) (s t : State) : Prop :=
  t.reg linkReg = s.pc ∧ SameRegsBut rs s t ∧ SameCellsBut as s t ∧ t.pc = s.pc ∧
    t.cancelAfter = s.cancelAfter ∧ t.config = s.config

/-- The general registers an instruction writes (the table after R11). -/
def regsWritten : Instr → List Reg
  | .addReg dr _ _ | .addImm dr _ _ | .andReg dr _ _ | .andImm dr _ _ | .notReg dr _ | .ld dr _
  | .ldi dr _ | .ldr dr _ _ | .lea dr _ => [dr]
  | .br _ _ | .st _ _ | .sti _ _ | .str _ _ _ | .jmp _ | .rti | .res => []
  | .jsr _ | .jsrr _ | .out | .puts | .putsp | .halt => [linkReg]
  | .getc | .inp => [linkReg, serviceReg]
  | .trap vect8 => if vect8 = 0x20#8 ∨ vect8 = 0x23#8 then [linkReg, serviceReg] else [linkReg]

/-- The register whose definition sets COND, if the instruction defines one (R17). -/
def definesReg : Instr → Option Reg
  | .addReg dr _ _ | .addImm dr _ _ | .andReg dr _ _ | .andImm dr _ _ | .notReg dr _ | .ld dr _
  | .ldi dr _ | .ldr dr _ _ | .lea dr _ => some dr
  | .getc | .inp => some serviceReg
  | .trap vect8 => if vect8 = 0x20#8 ∨ vect8 = 0x23#8 then some serviceReg else none
  | .br _ _ | .st _ _ | .sti _ _ | .str _ _ _ | .jmp _ | .jsr _ | .jsrr _ | .rti | .res | .out
  | .puts | .putsp | .halt => none

/-- The instructions that store to memory (R105 to R107). -/
def isStore : Instr → Bool
  | .st _ _ | .sti _ _ | .str _ _ _ => true
  | .br _ _ | .addReg _ _ _ | .addImm _ _ _ | .ld _ _ | .jsr _ | .jsrr _ | .andReg _ _ _
  | .andImm _ _ _ | .ldr _ _ _ | .rti | .notReg _ _ | .ldi _ _ | .jmp _ | .res | .lea _ _
  | .trap _ | .getc | .out | .puts | .inp | .putsp | .halt => false

/-- The instructions that write PC (R13). -/
def writesPc : Instr → Bool
  | .br _ _ | .jmp _ | .jsr _ | .jsrr _ => true
  | .addReg _ _ _ | .addImm _ _ _ | .ld _ _ | .st _ _ | .andReg _ _ _ | .andImm _ _ _ | .ldr _ _ _
  | .str _ _ _ | .rti | .notReg _ _ | .ldi _ _ | .sti _ _ | .res | .lea _ _ | .trap _ | .getc
  | .out | .puts | .inp | .putsp | .halt => false

/-- `w[hi:lo]` as a number (R202). -/
abbrev bitsNat (w : Word) (hi lo : Nat) : Nat := w.toNat / 2 ^ lo % 2 ^ (hi + 1 - lo)

/-- Each operand of the instruction is the bits of the Word that R53 and R55 give it, said of the
Word as a number. -/
def FieldsAt (i : Instr) (w : Word) : Prop :=
  match i with
  | .br cond off9 => cond.toNat = bitsNat w 11 9 ∧ off9.toNat = bitsNat w 8 0
  | .addReg dr sr1 sr2 | .andReg dr sr1 sr2 =>
    dr.val = bitsNat w 11 9 ∧ sr1.val = bitsNat w 8 6 ∧ 0 = bitsNat w 5 5 ∧ sr2.val = bitsNat w 2 0
  | .addImm dr sr1 imm5 | .andImm dr sr1 imm5 =>
    dr.val = bitsNat w 11 9 ∧ sr1.val = bitsNat w 8 6 ∧ 1 = bitsNat w 5 5 ∧
      imm5.toNat = bitsNat w 4 0
  | .ld r off9 | .ldi r off9 | .lea r off9 | .st r off9 | .sti r off9 =>
    r.val = bitsNat w 11 9 ∧ off9.toNat = bitsNat w 8 0
  | .ldr r base off6 | .str r base off6 =>
    r.val = bitsNat w 11 9 ∧ base.val = bitsNat w 8 6 ∧ off6.toNat = bitsNat w 5 0
  | .notReg dr sr => dr.val = bitsNat w 11 9 ∧ sr.val = bitsNat w 8 6
  | .jmp base => base.val = bitsNat w 8 6
  | .jsr off11 => 1 = bitsNat w 11 11 ∧ off11.toNat = bitsNat w 10 0
  | .jsrr base => 0 = bitsNat w 11 11 ∧ base.val = bitsNat w 8 6
  | .trap vect8 => vect8.toNat = bitsNat w 7 0
  | .getc => 0x20 = bitsNat w 7 0
  | .out => 0x21 = bitsNat w 7 0
  | .puts => 0x22 = bitsNat w 7 0
  | .inp => 0x23 = bitsNat w 7 0
  | .putsp => 0x24 = bitsNat w 7 0
  | .halt => 0x25 = bitsNat w 7 0
  | .rti | .res => True

/-- The trap services, whose link write has made R7 the return address (R130). -/
def isService : Instr → Bool
  | .trap _ | .getc | .out | .puts | .inp | .putsp | .halt => true
  | .br _ _ | .addReg _ _ _ | .addImm _ _ _ | .ld _ _ | .st _ _ | .jsr _ | .jsrr _ | .andReg _ _ _
  | .andImm _ _ _ | .ldr _ _ _ | .str _ _ _ | .rti | .notReg _ _ | .ldi _ _ | .sti _ _ | .jmp _
  | .res | .lea _ _ => false

/-- Equal but for COND. -/
abbrev SameButCond (s t : State) : Prop := t = s.setCond t.cond

/-- Two outcomes that differ at most in COND. -/
def OutcomesSameButCond (x y : Host.Outcome State Fault Refusal) : Prop :=
  match x, y with
  | .next s, .next t => SameButCond s t
  | .fault (.awaitingInput s), .fault (.awaitingInput t) => SameButCond s t
  | .fault f, .fault g => f = g
  | .refused f, .refused g => f = g
  | _, _ => False

/-! ### What the string services and the devices are given -/

/-- The `n` Words at `a`, `a + 1`, …, wrapping (R45). -/
def stringWords (s : State) (a : Word) : Nat → List Word
  | 0 => []
  | n + 1 => s.cell a :: stringWords s (a + 1#16) n

/-- The `n` Words from `a` on are a string, the Word after them is its terminator, and none of the
cells read is KBSR. -/
def isString (s : State) (a : Word) : Nat → Bool
  | 0 => a != kbsrAddr && s.cell a == 0x0000#16
  | n + 1 => a != kbsrAddr && s.cell a != 0x0000#16 && isString s (a + 1#16) n

/-- The `n` Words from `a` on are not 0x0000 and none of their cells is KBSR. -/
def plainWords (s : State) (a : Word) : Nat → Bool
  | 0 => true
  | n + 1 => a != kbsrAddr && s.cell a != 0x0000#16 && plainWords s (a + 1#16) n

/-- The reads at `a`, `a + 1`, … return these Words, none of them 0x0000, and leave the machine in
`u`: the reads of a string, KBSR's among them (R31, R133). -/
def readsWords : List Word → State → Word → State → Prop
  | [], s, _, u => u = s
  | w :: ws, s, a, u =>
    w ≠ 0x0000#16 ∧ ∃ s1, memRead a s = .done w s1 ∧ readsWords ws s1 (a + 1#16) u

/-- The bytes PUTS writes for Words that are not the terminator, said of the Words as numbers
(R133). -/
def putsText (ws : List Word) : List Byte := ws.map fun w => BitVec.ofNat 8 w.toNat

/-- The bytes PUTSP writes for Words that are not the terminator (R135). -/
def putspText (ws : List Word) : List Byte :=
  ws.flatMap fun w =>
    if w.toNat < 256 then [BitVec.ofNat 8 w.toNat]
    else [BitVec.ofNat 8 w.toNat, BitVec.ofNat 8 (w.toNat / 256)]

/-- The output device accepts at least `n` more bytes. -/
def acceptsOutput (s : State) (n : Nat) : Bool :=
  match s.outputFailsAfter with
  | none => true
  | some k => decide (n ≤ k)

/-- The device's script offers no endless supply of a byte. -/
def noEndlessInput (s : State) : Bool :=
  s.input.all fun e => match e with
    | .endless _ => false
    | .byte _ | .notYet | .fails | .readFails => true

/-- The byte a poll announces and the read after it takes, with what the device answers from then on;
none when a poll answers false or an operation fails (R48, D22). -/
def readyByte (s : State) : Option (Byte × List InputEvent) :=
  match s.input with
  | .byte b :: rest => some (b, rest)
  | .endless b :: _ => some (b, s.input)
  | [] | .notYet :: _ | .fails :: _ | .readFails :: _ => none

/-- A poll answers false (R48). -/
def noKeyReady (s : State) : Bool :=
  match s.input with
  | [] | .notYet :: _ => true
  | .byte _ :: _ | .fails :: _ | .readFails :: _ | .endless _ :: _ => false

/-- `n` moments at which the device has no byte, then what `rest` says. -/
def afterWaits (n : Nat) (rest : List InputEvent) : List InputEvent :=
  List.replicate n .notYet ++ rest

/-- The next answer the input device has to give is a failure, at once or after moments without a
byte. -/
abbrev InputFailing (s : State) : Prop :=
  ∃ n rest, s.input = afterWaits n (.fails :: rest) ∨ s.input = afterWaits n (.readFails :: rest)

/-- The output device fails at the next byte. -/
abbrev OutputFailing (s : State) : Prop := s.outputFailsAfter = some 0

/-- A KBSR read that failed, from `s` to `t`: in the poll, and KBSR is as it was, or in the read after
it, and KBSR is 0x8000 (R177). -/
abbrev KbsrReadFailed (s t : State) : Prop :=
  (∃ rest, t.input = .fails :: rest ∧ t.cell kbsrAddr = s.cell kbsrAddr) ∨
    (∃ rest, t.input = .readFails :: rest ∧ t.cell kbsrAddr = 0x8000#16)

/-- What a device failure inside an instruction leaves, from `s1` after the fetch to `t`, and which
operation it was (R164, R177): a KBSR read of a load or STI; GETC's read; an output of OUT or HALT;
one or the other of IN, PUTS or PUTSP. -/
def DeviceFailed (i : Instr) (s1 t : State) : Prop :=
  match i with
  | .ld _ _ | .ldi _ _ | .ldr _ _ _ | .sti _ _ =>
    KbsrReadFailed s1 t ∧ t.output = s1.output ∧ SameRegsBut [] s1 t ∧ SameCellsBut [kbsrAddr] s1 t
  | .getc =>
    InputFailing t ∧ t.output = s1.output ∧ SameRegsBut [linkReg] s1 t ∧ SameCellsBut [] s1 t
  | .out => OutputFailing t ∧ t.output = s1.output ∧ SameRegsBut [linkReg] s1 t ∧ SameCellsBut [] s1 t
  | .halt =>
    OutputFailing t ∧ s1.output <+: t.output ∧ SameRegsBut [linkReg] s1 t ∧ SameCellsBut [] s1 t
  | .inp =>
    (InputFailing t ∨ OutputFailing t) ∧ s1.output <+: t.output ∧ SameRegsBut [linkReg] s1 t ∧
      SameCellsBut [] s1 t
  | .puts | .putsp =>
    (InputFailing t ∨ OutputFailing t) ∧ s1.output <+: t.output ∧ SameRegsBut [linkReg] s1 t ∧
      SameCellsBut [kbsrAddr, kbdrAddr] s1 t
  | .br _ _ | .addReg _ _ _ | .addImm _ _ _ | .st _ _ | .jsr _ | .jsrr _ | .andReg _ _ _
  | .andImm _ _ _ | .str _ _ _ | .rti | .notReg _ _ | .jmp _ | .res | .lea _ _ | .trap _ => False

/-- A string service reads no cell of KBSR: it meets the terminator before, or the output device fails
before. -/
def stringAvoidsKbsr (text : List Word → List Byte) (s : State) : Prop :=
  ∃ n, isString s (s.reg serviceReg) n = true ∨
    plainWords s (s.reg serviceReg) n = true ∧
      acceptsOutput s (text (stringWords s (s.reg serviceReg) n)).length = false

/-- No data read the instruction makes is of KBSR (R37); true of the instructions that read no
data. -/
def readsAvoidKbsr (i : Instr) (s : State) : Prop :=
  match i with
  | .ld _ off9 | .sti _ off9 => pcRel9 s off9 ≠ kbsrAddr
  | .ldr _ base off6 => baseOff6 s base off6 ≠ kbsrAddr
  | .ldi _ off9 => pcRel9 s off9 ≠ kbsrAddr ∧ s.cell (pcRel9 s off9) ≠ kbsrAddr
  | .puts => stringAvoidsKbsr putsText s
  | .putsp => stringAvoidsKbsr putspText s
  | .trap vect8 =>
    (vect8 = 0x22#8 → stringAvoidsKbsr putsText s) ∧
      (vect8 = 0x24#8 → stringAvoidsKbsr putspText s)
  | .br _ _ | .addReg _ _ _ | .addImm _ _ _ | .st _ _ | .jsr _ | .jsrr _ | .andReg _ _ _
  | .andImm _ _ _ | .str _ _ _ | .rti | .notReg _ _ | .jmp _ | .res | .lea _ _ | .getc | .out
  | .inp | .halt => True

end Sys2Proof.Machine
end

