-- ==== Sys2Proof/Certificates/Slice0/Obligations.lean ====
section
/-! DEFINITION. The statements about the model, for the provers. `linkReg` is R7 and `serviceReg` is R0 (R11). -/

open Sys2Proof Sys2Proof.Machine

/-! ### Reset and the loader -/

/-- R23, R190, R46: what reset, one loader call and the start leave, for every parameter value, and
that `State.reset` is that state with nothing loaded. RunState at the start is decision D20; the
default start address is the parameter's (log 7); the request's line is not raised (R23). -/
def Obligations.BootLeavesTheResetState : Prop :=
  (∀ (c : Config) (origin : Word) (words : List Word), words.length ≤ 65536 →
    ∃ s, boot c [(origin, words)] = .ok s ∧
      (∀ r, s.reg r = 0x0000#16) ∧ s.pc = c.pcStart ∧ s.cond = flagZero ∧
      s.runState = .running ∧ s.cancelAfter ≠ some 0 ∧ s.output = [] ∧
      (∀ i w, words[i]? = some w → s.cell (origin + BitVec.ofNat 16 i) = w) ∧
      (∀ a, (∀ i, i < words.length → a ≠ origin + BitVec.ofNat 16 i) → s.cell a = 0x0000#16)) ∧
  boot defaultConfig [] = .ok State.reset ∧ State.reset.pc = 0x3000#16

/-- R46: one loader call on any memory. That exactly the sequences of up to 65536 Words are accepted
is decision D18 (log 18). -/
def Obligations.LoaderWritesConsecutiveAddresses : Prop :=
  ∀ (origin : Word) (words : List Word) (m : Memory),
    (words.length ≤ 65536 → ∃ n, loadImage origin words m = .ok n ∧
      (∀ i w, words[i]? = some w → n.read (origin + BitVec.ofNat 16 i).toNat = w) ∧
      (∀ a : Word, (∀ i, i < words.length → a ≠ origin + BitVec.ofNat 16 i) →
        n.read a.toNat = m.read a.toNat)) ∧
    (65536 < words.length → loadImage origin words m = .error .imageTooLong)

/-! ### The invariant -/

/-- R15, R23: the invariant holds at the start, for every parameter value and every image the loader
accepts. -/
def Obligations.InvariantHoldsAtBoot : Prop :=
  ∀ (c : Config) (images : List (Word × List Word)) (s : State), boot c images = .ok s → s.inv

/-- R15 and log 1: every step keeps memory canonical and COND one of the three flags. -/
def Obligations.EveryStepKeepsTheInvariant : Prop :=
  ∀ s t : State, s.inv → step s = .next t → t.inv

/-- Log 1: two canonical memories that read alike at every address are the same data. -/
def Obligations.CanonicalMemoriesThatReadAlikeAreEqual : Prop :=
  ∀ m n : Memory, m.wf → n.wf → (∀ a : Word, m.read a.toNat = n.read a.toNat) → m = n

/-! ### The step -/

/-- R70, R72: a running machine that is not cancelled and does not fetch from KBSR runs the decoded
instruction with PC advanced; one step boundary of the request's count has passed (log 5). -/
def Obligations.StepRunsTheDecodedInstruction : Prop :=
  ∀ s : State, s.runState = .running → s.cancelAfter ≠ some 0 → s.pc ≠ kbsrAddr →
    step s = exec (decode (s.cell s.pc))
      { s with pc := s.pc + 1#16, cancelAfter := s.cancelAfter.map fun n => n - 1 }

/-- R74: a fetch from KBSR, a request that is pending but not raised included, polls the keyboard. A
byte ready: RTI is fetched, InvalidOpcode. None: a branch never taken. A failing device:
HostIOError, PC not advanced (D8, log 14). The opcode numbers are D1 (log 8), the cell's number is
D3 (log 10), the Words 0x8000 and 0x0000 the poll leaves are D4 (log 13). -/
def Obligations.FetchFromKbsrPollsTheKeyboard : Prop :=
  ∀ s : State, s.runState = .running → s.cancelAfter ≠ some 0 → s.pc = kbsrAddr →
    (∀ b rest, readyByte s = some (b, rest) →
      ∃ t, step s = .next t ∧ t.runState = .halted .invalidOpcode ∧ t.pc = kbsrAddr + 1#16 ∧
        t.cell kbsrAddr = 0x8000#16 ∧ t.cell kbdrAddr = b.setWidth 16 ∧ t.input = rest ∧
        SameCellsBut [kbsrAddr, kbdrAddr] s t ∧ SameRegsBut [] s t ∧ t.cond = s.cond ∧
        t.output = s.output ∧ t.cancelAfter = s.cancelAfter.map fun n => n - 1) ∧
    (noKeyReady s = true →
      ∃ t, step s = .next t ∧ t.runState = .running ∧ t.pc = kbsrAddr + 1#16 ∧
        t.cell kbsrAddr = 0x0000#16 ∧ t.input = s.input.tail ∧ SameCellsBut [kbsrAddr] s t ∧
        SameRegsBut [] s t ∧ t.cond = s.cond ∧ t.output = s.output ∧
        t.cancelAfter = s.cancelAfter.map fun n => n - 1) ∧
    (∀ rest, s.input = .fails :: rest →
      ∃ t, step s = .next t ∧ t.runState = .halted .hostIOError ∧ t.pc = kbsrAddr ∧
        SameCellsBut [] s t ∧ SameRegsBut [] s t ∧ t.cond = s.cond ∧ t.output = s.output) ∧
    (∀ rest, s.input = .readFails :: rest →
      ∃ t, step s = .next t ∧ t.runState = .halted .hostIOError ∧ t.pc = kbsrAddr ∧
        t.cell kbsrAddr = 0x8000#16 ∧ SameCellsBut [kbsrAddr] s t ∧ SameRegsBut [] s t ∧
        t.cond = s.cond ∧ t.output = s.output)

/-- R166, R167(a): a request seen at the top of a step is the whole step. -/
def Obligations.CancellationIsTakenBeforeTheFetch : Prop :=
  ∀ s : State, s.runState = .running → s.cancelAfter = some 0 →
    step s = .next { s with runState := .halted .cancelled }

/-- R19, R73: no step is taken from a terminal state, whatever else the state holds. -/
def Obligations.HaltedMachineTakesNoStep : Prop :=
  ∀ (s : State) (k : HaltKind), s.runState = .halted k → step s = .fault (.alreadyHalted k)

/-- R43: a Word stored over the next instruction is what the next step fetches; a request may be
pending, but is not raised before either step. -/
def Obligations.StoredWordIsFetchedByTheNextStep : Prop :=
  ∀ (s : State) (sr : Reg), s.runState = .running → s.cancelAfter ≠ some 0 →
    s.cancelAfter ≠ some 1 → s.pc ≠ kbsrAddr → s.pc + 1#16 ≠ kbsrAddr →
    decode (s.cell s.pc) = .st sr 0#9 →
    ∃ t, step s = .next t ∧ t.pc = s.pc + 1#16 ∧ t.cell (s.pc + 1#16) = s.reg sr ∧
      step t = exec (decode (s.reg sr))
        { t with pc := s.pc + 2#16, cancelAfter := t.cancelAfter.map fun n => n - 1 }

/-- R73, R160 to R166: a step of a running machine reaches each terminal kind only by that kind's
cause, and what the kind leaves (R177): `s1` is the state after the fetch's read, which changes
memory only if the fetch is of KBSR. Rests on where a request is seen (D7, log 5), on a device
failure being terminal (D8, log 14), on R7 being written before the vector is looked at (D21, log
17), and on what the keyboard cells are left with (D4, log 13); the devices' form is log 3 and 6. -/
def Obligations.EachHaltKindHasItsCause : Prop :=
  ∀ (s t : State) (k : HaltKind), s.runState = .running → step s = .next t →
    t.runState = .halted k →
    match k with
    | .cancelled => s.cancelAfter = some 0 ∧ t = { s with runState := .halted .cancelled }
    | .haltRequested => s.cancelAfter ≠ some 0 ∧
        ∃ ir s1, memRead s.pc s = .done ir s1 ∧ decode ir = .halt ∧
          t.output = s.output ++ s.config.haltNotice ∧ t.pc = s.pc + 1#16 ∧
          t.reg linkReg = s.pc + 1#16 ∧ SameRegsBut [linkReg] s t ∧ t.cond = s.cond ∧
          t.mem = s1.mem ∧ t.input = s1.input
    | .invalidOpcode => s.cancelAfter ≠ some 0 ∧
        ∃ ir s1, memRead s.pc s = .done ir s1 ∧ (decode ir = .rti ∨ decode ir = .res) ∧
          t.output = s.output ∧ t.pc = s.pc + 1#16 ∧ SameRegsBut [] s t ∧ t.cond = s.cond ∧
          t.mem = s1.mem ∧ t.input = s1.input
    | .invalidTrapVector => s.cancelAfter ≠ some 0 ∧
        ∃ ir s1 vect8, memRead s.pc s = .done ir s1 ∧ decode ir = .trap vect8 ∧
          vect8 ∉ mappedVectors ∧ t.output = s.output ∧ t.pc = s.pc + 1#16 ∧
          t.reg linkReg = s.pc + 1#16 ∧ SameRegsBut [linkReg] s t ∧ t.cond = s.cond ∧
          t.mem = s1.mem ∧ t.input = s1.input
    | .hostIOError => s.cancelAfter ≠ some 0 ∧ t.cond = s.cond ∧
        (s.pc = kbsrAddr ∧ KbsrReadFailed s t ∧ t.pc = s.pc ∧ t.output = s.output ∧
            SameRegsBut [] s t ∧ SameCellsBut [kbsrAddr] s t ∨
          ∃ ir s1, memRead s.pc s = .done ir s1 ∧ DeviceFailed (decode ir) s1 t ∧
            t.pc = s.pc + 1#16 ∧ (isService (decode ir) = true → t.reg linkReg = s.pc + 1#16))

/-- R192 (derived there): a running machine over zeroed memory with no key coming and no cancellation
within `n` steps takes those `n` steps, wherever its PC is: it runs on, each step advances PC by 1
(wrapping), registers and COND are unchanged, memory is still all 0, and nothing fatal happens. That
0x0000 is a branch is D1 (log 8); that a KBSR read without a key leaves 0x0000 is D4 (log 13). -/
def Obligations.ZeroedMemoryRunsOnSafely : Prop :=
  ∀ (n : Nat) (s : State), s.runState = .running → s.mem = [] →
    (∀ k, s.cancelAfter = some k → n ≤ k) → (∀ e ∈ s.input, e = .notYet) →
    s.safeFor n ∧
      ∃ t, stepsTo n s t ∧ t.runState = .running ∧ t.pc = s.pc + BitVec.ofNat 16 n ∧
        SameRegsBut [] s t ∧ t.cond = s.cond ∧ t.mem = [] ∧ t.output = s.output

/-! ### Encoding -/

/-- R58: decode after encode is the identity on every well-formed instruction, with every operand at
every value. -/
def Obligations.DecodeOfEncodeIsTheInstruction : Prop :=
  ∀ i : Instr, i.wf = true → decode (encode i) = i

/-- R53, R55, R56: each format's fields are read from the bits the spec gives, and the ignored bits
change nothing. Rests on the opcode numbers D1 (log 8) and on D5 (log 11). -/
def Obligations.DecodeReadsEachFormatsFields : Prop :=
  ∀ (r q p : BitVec 3) (x2 : BitVec 2) (x4 : BitVec 4) (i5 : BitVec 5) (x6 : BitVec 6)
    (v8 : BitVec 8) (o9 : BitVec 9) (o11 : BitVec 11) (x12 : BitVec 12),
    decode (0b0000#4 ++ r ++ o9) = .br r o9 ∧
    decode (0b0001#4 ++ r ++ q ++ 0b0#1 ++ x2 ++ p) = .addReg r.toFin q.toFin p.toFin ∧
    decode (0b0001#4 ++ r ++ q ++ 0b1#1 ++ i5) = .addImm r.toFin q.toFin i5 ∧
    decode (0b0010#4 ++ r ++ o9) = .ld r.toFin o9 ∧
    decode (0b0011#4 ++ r ++ o9) = .st r.toFin o9 ∧
    decode (0b0100#4 ++ 0b1#1 ++ o11) = .jsr o11 ∧
    decode (0b0100#4 ++ 0b0#1 ++ x2 ++ r ++ x6) = .jsrr r.toFin ∧
    decode (0b0101#4 ++ r ++ q ++ 0b0#1 ++ x2 ++ p) = .andReg r.toFin q.toFin p.toFin ∧
    decode (0b0101#4 ++ r ++ q ++ 0b1#1 ++ i5) = .andImm r.toFin q.toFin i5 ∧
    decode (0b0110#4 ++ r ++ q ++ x6) = .ldr r.toFin q.toFin x6 ∧
    decode (0b0111#4 ++ r ++ q ++ x6) = .str r.toFin q.toFin x6 ∧
    decode (0b1000#4 ++ x12) = .rti ∧
    decode (0b1001#4 ++ r ++ q ++ x6) = .notReg r.toFin q.toFin ∧
    decode (0b1010#4 ++ r ++ o9) = .ldi r.toFin o9 ∧
    decode (0b1011#4 ++ r ++ o9) = .sti r.toFin o9 ∧
    decode (0b1100#4 ++ q ++ r ++ x6) = .jmp r.toFin ∧
    decode (0b1101#4 ++ x12) = .res ∧
    decode (0b1110#4 ++ r ++ o9) = .lea r.toFin o9 ∧
    decode (0b1111#4 ++ x4 ++ 0x20#8) = .getc ∧
    decode (0b1111#4 ++ x4 ++ 0x21#8) = .out ∧
    decode (0b1111#4 ++ x4 ++ 0x22#8) = .puts ∧
    decode (0b1111#4 ++ x4 ++ 0x23#8) = .inp ∧
    decode (0b1111#4 ++ x4 ++ 0x24#8) = .putsp ∧
    decode (0b1111#4 ++ x4 ++ 0x25#8) = .halt ∧
    (v8 ∉ mappedVectors → decode (0b1111#4 ++ x4 ++ v8) = .trap v8)

/-- R51, R53 to R55: every operand of the instruction a Word decodes to is the bits of the Word that
its format gives it, and the form bits are as the form says. No opcode number is rested on. -/
def Obligations.DecodedOperandsAreTheWordsBits : Prop :=
  ∀ w : Word, FieldsAt (decode w) w

/-- R52: every Word matches the opcode table's row of the instruction it decodes to, and any other
row it matches is the generic TRAP row beside a service's (the table's numbers are D1, log 8). -/
def Obligations.DecodedWordMatchesItsTableRowAlone : Prop :=
  ∀ w : Word, (rowOf (decode w)).matches w = true ∧
    ∀ i : Instr, (rowOf i).matches w = true →
      rowOf i = rowOf (decode w) ∨ (rowOf i = rowOf (.trap 0x00#8) ∧ vect8Of w ∈ mappedVectors)

/-- R51: every Word decodes to a well-formed instruction. -/
def Obligations.EveryWordDecodesToAWellFormedInstruction : Prop :=
  ∀ w : Word, (decode w).wf = true

/-- Words written out in the spec's examples, one or more a family, decode to the instructions they
stand for. The opcode numbers are D1 (log 8); that 0x1419, 0x46BF and 0xF120 are read past their
non-canonical ignored bits is D5 (log 11). -/
def Obligations.ExampleWordsDecodeToTheirInstructions : Prop :=
  decode 0x0403#16 = .br 0b010#3 3#9 ∧ decode 0x1061#16 = .addImm 0 1 1#5 ∧
  decode 0x1419#16 = .addReg 2 0 1 ∧ decode 0x69BE#16 = .ldr 4 6 0b111110#6 ∧
  decode 0xB202#16 = .sti 1 2#9 ∧ decode 0xC1C0#16 = .jmp 7 ∧ decode 0x4804#16 = .jsr 4#11 ∧
  decode 0x46BF#16 = .jsrr 2 ∧ decode 0xE002#16 = .lea 0 2#9 ∧ decode 0xF120#16 = .getc ∧
  decode 0xF026#16 = .trap 0x26#8 ∧ decode 0x8FFF#16 = .rti ∧ decode 0xDFFF#16 = .res

/-! ### Operands, flags, registers and memory -/

/-- R203: sign extension is the two's-complement widening, and the spec's formula, for the four
widths. -/
def Obligations.SignExtensionWidensTwosComplement : Prop :=
  ∀ k : Nat, k ∈ [5, 6, 9, 11] → ∀ x : BitVec k,
    (sext x).toInt = x.toInt ∧
    (x.toNat < 2 ^ (k - 1) → (sext x).toNat = x.toNat) ∧
    (2 ^ (k - 1) ≤ x.toNat → (sext x).toNat = x.toNat + (65536 - 2 ^ k))

/-- R45, R54: the effective addresses are the sums modulo 65536 of the base as a number and the
signed offset. -/
def Obligations.EffectiveAddressesWrap : Prop :=
  ∀ (s : State) (base : Reg) (off6 : BitVec 6) (off9 : BitVec 9) (off11 : BitVec 11),
    ((pcRel9 s off9).toNat : Int) = ((s.pc.toNat : Int) + off9.toInt) % 65536 ∧
    ((pcRel11 s off11).toNat : Int) = ((s.pc.toNat : Int) + off11.toInt) % 65536 ∧
    ((baseOff6 s base off6).toNat : Int) = (((s.reg base).toNat : Int) + off6.toInt) % 65536

/-- R16: `SetCC` derives the flag from the Word now in the register and changes nothing else. -/
def Obligations.SetCCDescribesTheRegister : Prop :=
  ∀ (s : State) (r : Reg),
    FlagDescribes (s.reg r) (s.setCC r).cond ∧ s.setCC r = { s with cond := (s.setCC r).cond }

/-- R10: a register holds the Word last written to it, R0 as the others, and the others keep
theirs. -/
def Obligations.RegisterHoldsTheWordLastWritten : Prop :=
  ∀ (s : State) (r q : Reg) (v : Word),
    (s.setReg r v).reg r = v ∧ (q ≠ r → (s.setReg r v).reg q = s.reg q) ∧
    (s.setReg r v).pc = s.pc ∧ (s.setReg r v).cond = s.cond

/-- R33: a write stores the Word at its address, KBSR and KBDR included, and does nothing else. -/
def Obligations.MemoryWriteIsAPlainStore : Prop :=
  ∀ (s : State) (a v : Word), StoresOnly a v s (s.store a v)

/-- R31: a read of any address but KBSR returns the stored Word and has no side effect; a read of KBSR
returns the fresh status. Assignments, not ORs (D4, log 13); the script's form is log 3. -/
def Obligations.MemoryReadPollsTheKeyboardAtKbsrOnly : Prop :=
  ∀ s : State,
    (∀ a, a ≠ kbsrAddr → memRead a s = .done (s.cell a) s) ∧
    (∀ b rest, readyByte s = some (b, rest) →
      ∃ t, memRead kbsrAddr s = .done 0x8000#16 t ∧ t.cell kbsrAddr = 0x8000#16 ∧
        t.cell kbdrAddr = b.setWidth 16 ∧ SameCellsBut [kbsrAddr, kbdrAddr] s t ∧
        t.input = rest ∧ SameRegsBut [] s t ∧ t.pc = s.pc ∧ t.cond = s.cond ∧
        SameOutput s t ∧ SameControl s t) ∧
    (noKeyReady s = true →
      ∃ t, memRead kbsrAddr s = .done 0x0000#16 t ∧ t.cell kbsrAddr = 0x0000#16 ∧
        SameCellsBut [kbsrAddr] s t ∧ t.input = s.input.tail ∧ SameRegsBut [] s t ∧
        t.pc = s.pc ∧ t.cond = s.cond ∧ SameOutput s t ∧ SameControl s t) ∧
    (∀ rest, s.input = .fails :: rest →
      memRead kbsrAddr s = .raised { s with runState := .halted .hostIOError }) ∧
    (∀ rest, s.input = .readFails :: rest →
      memRead kbsrAddr s = .raised
        { s.store kbsrAddr 0x8000#16 with runState := .halted .hostIOError })

/-! ### Operate instructions and LEA -/

/-- R85, R86: ADD, both forms, for every choice of registers, and where its operands lie. -/
def Obligations.AddDefinesTheWrappingSum : Prop :=
  ∀ (s : State) (dr sr1 sr2 : Reg) (imm5 : BitVec 5),
    (∃ t, exec (.addReg dr sr1 sr2) s = .next t ∧ SameDevices s t ∧
      DefinesOnly dr (BitVec.ofNat 16 ((s.reg sr1).toNat + (s.reg sr2).toNat)) [] s t) ∧
    (∃ t, exec (.addImm dr sr1 imm5) s = .next t ∧ SameDevices s t ∧
      DefinesOnly dr (BitVec.ofInt 16 ((s.reg sr1).toInt + imm5.toInt)) [] s t) ∧
    (∀ w, decode w = .addReg dr sr1 sr2 → FieldsAt (.addReg dr sr1 sr2) w) ∧
    (∀ w, decode w = .addImm dr sr1 imm5 → FieldsAt (.addImm dr sr1 imm5) w)

/-- R87, R88: AND, both forms: the result bit by bit, and where the operands lie. An immediate's bit 4
stands for bits 15 to 4. -/
def Obligations.AndDefinesTheBitwiseAnd : Prop :=
  ∀ (s : State) (dr sr1 sr2 : Reg) (imm5 : BitVec 5),
    (∃ t v, exec (.andReg dr sr1 sr2) s = .next t ∧ SameDevices s t ∧ DefinesOnly dr v [] s t ∧
      ∀ i < 16, v.getLsbD i = ((s.reg sr1).getLsbD i && (s.reg sr2).getLsbD i)) ∧
    (∃ t v, exec (.andImm dr sr1 imm5) s = .next t ∧ SameDevices s t ∧ DefinesOnly dr v [] s t ∧
      ∀ i < 16, v.getLsbD i = ((s.reg sr1).getLsbD i && imm5.getLsbD (min i 4))) ∧
    (∀ w, decode w = .andReg dr sr1 sr2 → FieldsAt (.andReg dr sr1 sr2) w) ∧
    (∀ w, decode w = .andImm dr sr1 imm5 → FieldsAt (.andImm dr sr1 imm5) w)

/-- R89: NOT, and where its operands lie. -/
def Obligations.NotDefinesTheComplement : Prop :=
  ∀ (s : State) (dr sr : Reg),
    (∃ t, exec (.notReg dr sr) s = .next t ∧ SameDevices s t ∧
      DefinesOnly dr (BitVec.ofNat 16 (65535 - (s.reg sr).toNat)) [] s t) ∧
    (∀ w, decode w = .notReg dr sr → FieldsAt (.notReg dr sr) w)

/-- R125: LEA defines the address, sets COND, and touches neither memory nor the keyboard, even when
the address is KBSR's; and where its operands lie. -/
def Obligations.LeaDefinesTheAddress : Prop :=
  ∀ (s : State) (dr : Reg) (off9 : BitVec 9),
    (∃ t, exec (.lea dr off9) s = .next t ∧ SameDevices s t ∧
      DefinesOnly dr (BitVec.ofInt 16 (s.pc.toInt + off9.toInt)) [] s t) ∧
    (∀ w, decode w = .lea dr off9 → FieldsAt (.lea dr off9) w)

/-! ### Loads -/

/-- R95, R96: LD and LDI define the Word their read returns, after one read and after two, whatever the
read is of. A read that raises is the end of the instruction, with nothing defined: R161, R164, by
decision D8 (log 14). And where the operands lie. -/
def Obligations.LdAndLdiDefineWhatTheirReadsReturn : Prop :=
  ∀ (s : State) (dr : Reg) (off9 : BitVec 9),
    (∀ v u, memRead (pcRel9 s off9) s = .done v u →
      (∃ t, exec (.ld dr off9) s = .next t ∧ SameDevices u t ∧ DefinesOnly dr v [] u t) ∧
      (∀ v2 u2, memRead v u = .done v2 u2 →
        ∃ t, exec (.ldi dr off9) s = .next t ∧ SameDevices u2 t ∧ DefinesOnly dr v2 [] u2 t) ∧
      (∀ u2, memRead v u = .raised u2 → exec (.ldi dr off9) s = .next u2)) ∧
    (∀ u, memRead (pcRel9 s off9) s = .raised u →
      exec (.ld dr off9) s = .next u ∧ exec (.ldi dr off9) s = .next u) ∧
    (∀ w, decode w = .ld dr off9 → FieldsAt (.ld dr off9) w) ∧
    (∀ w, decode w = .ldi dr off9 → FieldsAt (.ldi dr off9) w)

/-- R95, R96, R97: the loads, when no read is of KBSR. LDR's flags are D12 (log 15). -/
def Obligations.LoadsDefineTheStoredWord : Prop :=
  ∀ (s : State) (dr base : Reg) (off9 : BitVec 9) (off6 : BitVec 6),
    (pcRel9 s off9 ≠ kbsrAddr →
      ∃ t, exec (.ld dr off9) s = .next t ∧ SameDevices s t ∧
        DefinesOnly dr (s.cell (pcRel9 s off9)) [] s t) ∧
    (baseOff6 s base off6 ≠ kbsrAddr →
      ∃ t, exec (.ldr dr base off6) s = .next t ∧ SameDevices s t ∧
        DefinesOnly dr (s.cell (baseOff6 s base off6)) [] s t) ∧
    (pcRel9 s off9 ≠ kbsrAddr → s.cell (pcRel9 s off9) ≠ kbsrAddr →
      ∃ t, exec (.ldi dr off9) s = .next t ∧ SameDevices s t ∧
        DefinesOnly dr (s.cell (s.cell (pcRel9 s off9))) [] s t)

/-- R31, R95 to R97, R164: the loads whose data read is of KBSR: the Words are D4 (log 13), LDR's flags
D12 (log 15), the failures' ends D8 (log 14), the script's form log 3. -/
def Obligations.LoadsOfKbsrDefineTheFreshStatus : Prop :=
  ∀ (s : State) (i : Instr) (dr base : Reg) (off9 : BitVec 9) (off6 : BitVec 6),
    (i = .ld dr off9 ∧ pcRel9 s off9 = kbsrAddr ∨
      i = .ldr dr base off6 ∧ baseOff6 s base off6 = kbsrAddr ∨
      i = .ldi dr off9 ∧ pcRel9 s off9 ≠ kbsrAddr ∧ s.cell (pcRel9 s off9) = kbsrAddr) →
    (∀ b rest, readyByte s = some (b, rest) →
      ∃ t, exec i s = .next t ∧ DefinesOnly dr 0x8000#16 [kbsrAddr, kbdrAddr] s t ∧
        t.cell kbsrAddr = 0x8000#16 ∧ t.cell kbdrAddr = b.setWidth 16 ∧ t.input = rest ∧
        SameOutput s t) ∧
    (noKeyReady s = true →
      ∃ t, exec i s = .next t ∧ DefinesOnly dr 0x0000#16 [kbsrAddr] s t ∧
        t.cell kbsrAddr = 0x0000#16 ∧ t.input = s.input.tail ∧ SameOutput s t) ∧
    (∀ rest, s.input = .fails :: rest →
      exec i s = .next { s with runState := .halted .hostIOError }) ∧
    (∀ rest, s.input = .readFails :: rest →
      exec i s = .next { s.store kbsrAddr 0x8000#16 with runState := .halted .hostIOError })

/-- R37, R96, R106: LDI and STI whose pointer cell is KBSR: the poll's Word is the pointer, and no
store is made when the device fails (D4, log 13; D8, log 14; the script's form is log 3). -/
def Obligations.PointerReadFromKbsrPolls : Prop :=
  ∀ (s : State) (r : Reg) (off9 : BitVec 9), pcRel9 s off9 = kbsrAddr →
    (∀ b rest, readyByte s = some (b, rest) →
      (∃ t, exec (.ldi r off9) s = .next t ∧
        DefinesOnly r (s.cell 0x8000#16) [kbsrAddr, kbdrAddr] s t ∧
        t.cell kbsrAddr = 0x8000#16 ∧ t.cell kbdrAddr = b.setWidth 16 ∧ t.input = rest) ∧
      (∃ t, exec (.sti r off9) s = .next t ∧ t.cell 0x8000#16 = s.reg r ∧
        t.cell kbsrAddr = 0x8000#16 ∧ t.cell kbdrAddr = b.setWidth 16 ∧ t.input = rest ∧
        SameCellsBut [0x8000#16, kbsrAddr, kbdrAddr] s t ∧ SameRegsBut [] s t ∧
        t.pc = s.pc ∧ t.cond = s.cond ∧ SameControl s t)) ∧
    (noKeyReady s = true →
      (∃ t, exec (.ldi r off9) s = .next t ∧
        DefinesOnly r (s.cell 0x0000#16) [kbsrAddr] s t ∧ t.cell kbsrAddr = 0x0000#16) ∧
      (∃ t, exec (.sti r off9) s = .next t ∧ t.cell 0x0000#16 = s.reg r ∧
        t.cell kbsrAddr = 0x0000#16 ∧ SameCellsBut [0x0000#16, kbsrAddr] s t ∧
        SameRegsBut [] s t ∧ t.pc = s.pc ∧ t.cond = s.cond ∧ SameControl s t)) ∧
    (∀ rest, s.input = .fails :: rest →
      exec (.ldi r off9) s = .next { s with runState := .halted .hostIOError } ∧
      exec (.sti r off9) s = .next { s with runState := .halted .hostIOError }) ∧
    (∀ rest, s.input = .readFails :: rest →
      exec (.ldi r off9) s =
        .next { s.store kbsrAddr 0x8000#16 with runState := .halted .hostIOError } ∧
      exec (.sti r off9) s =
        .next { s.store kbsrAddr 0x8000#16 with runState := .halted .hostIOError })

/-! ### Stores -/

/-- R105, R107: ST and STR store at every address, KBSR and KBDR included, and change nothing else; and
where their operands lie. -/
def Obligations.StoresWriteExactlyTheirCell : Prop :=
  ∀ (s : State) (sr base : Reg) (off9 : BitVec 9) (off6 : BitVec 6),
    (∃ t, exec (.st sr off9) s = .next t ∧ StoresOnly (pcRel9 s off9) (s.reg sr) s t) ∧
    (∃ t, exec (.str sr base off6) s = .next t ∧
      StoresOnly (baseOff6 s base off6) (s.reg sr) s t) ∧
    (∀ w, decode w = .st sr off9 → FieldsAt (.st sr off9) w) ∧
    (∀ w, decode w = .str sr base off6 → FieldsAt (.str sr base off6) w)

/-- R106: STI stores at the address its pointer cell holds, for a pointer cell other than KBSR (the
pointer itself may be any address, KBSR's and the pointer cell's own included). -/
def Obligations.StiStoresThroughItsPointer : Prop :=
  ∀ (s : State) (sr : Reg) (off9 : BitVec 9), pcRel9 s off9 ≠ kbsrAddr →
    ∃ t, exec (.sti sr off9) s = .next t ∧
      StoresOnly (s.cell (pcRel9 s off9)) (s.reg sr) s t

/-! ### Control transfer -/

/-- R80: BR, for every field and every COND; and, with a legal COND, its table: `cond` names the flags
n, z, p from its high bit down (the flag values are D2, log 9). -/
def Obligations.BranchAddsTheOffsetWhenAFlagIsMet : Prop :=
  ∀ (s : State) (cond : BitVec 3) (off9 : BitVec 9),
    ∃ t, exec (.br cond off9) s = .next t ∧ JumpsOnly [] s t ∧
      t.pc = (if cond.setWidth 16 &&& s.cond ≠ 0x0000#16 then pcRel9 s off9 else s.pc) ∧
      (s.condLegal →
        t.pc = if (cond.getLsbD 2 = true ∧ s.cond = flagNeg) ∨
            (cond.getLsbD 1 = true ∧ s.cond = flagZero) ∨
            (cond.getLsbD 0 = true ∧ s.cond = flagPos)
          then pcRel9 s off9 else s.pc)

/-- R115: JMP, RET among it, and where its operand lies. -/
def Obligations.JmpGoesToTheBaseRegister : Prop :=
  ∀ (s : State) (base : Reg),
    (∃ t, exec (.jmp base) s = .next t ∧ t.pc = s.reg base ∧ JumpsOnly [] s t) ∧
    (∀ w, decode w = .jmp base → FieldsAt (.jmp base) w)

/-- R116: JSR saves the return address and jumps; COND is unchanged. And where its operand lies. -/
def Obligations.JsrLinksAndJumps : Prop :=
  ∀ (s : State) (off11 : BitVec 11),
    (∃ t, exec (.jsr off11) s = .next t ∧ t.reg linkReg = s.pc ∧ t.pc = pcRel11 s off11 ∧
      JumpsOnly [linkReg] s t) ∧
    (∀ w, decode w = .jsr off11 → FieldsAt (.jsr off11) w)

/-- R117: JSRR; with base R7 the order of D16 (log 16) shows: it does not jump. -/
def Obligations.JsrrLinksThenReadsTheBase : Prop :=
  ∀ (s : State) (base : Reg),
    ∃ t, exec (.jsrr base) s = .next t ∧ t.reg linkReg = s.pc ∧ JumpsOnly [linkReg] s t ∧
      (base ≠ linkReg → t.pc = s.reg base) ∧ (base = linkReg → t.pc = s.pc)

/-! ### TRAP and its services -/

/-- R130: the generic TRAP with a mapped vector performs that vector's service (the decoder never
gives it; log 21). -/
def Obligations.GenericTrapPerformsTheServiceItNames : Prop :=
  ∀ s : State,
    exec (.trap 0x20#8) s = exec .getc s ∧ exec (.trap 0x21#8) s = exec .out s ∧
    exec (.trap 0x22#8) s = exec .puts s ∧ exec (.trap 0x23#8) s = exec .inp s ∧
    exec (.trap 0x24#8) s = exec .putsp s ∧ exec (.trap 0x25#8) s = exec .halt s

/-- R137, R163: an unmapped vector is fatal, after the link write (D21, log 17). -/
def Obligations.UnmappedVectorHaltsAfterTheLinkWrite : Prop :=
  ∀ (s : State) (vect8 : BitVec 8), vect8.toNat < 0x20 ∨ 0x25 < vect8.toNat →
    ∃ t, exec (.trap vect8) s = .next t ∧ t.runState = .halted .invalidTrapVector ∧
      TrapFrame [linkReg] [] s t ∧ t.cond = s.cond ∧ SameDevices s t

/-- R131: GETC waits for the next byte and returns it zero-extended, with no echo. -/
def Obligations.GetcReturnsTheNextByte : Prop :=
  ∀ (s : State) (n : Nat) (b : Byte) (rest after : List InputEvent),
    (s.input = afterWaits n (.byte b :: rest) ∧ after = rest ∨
      s.input = afterWaits n (.endless b :: rest) ∧ after = .endless b :: rest) →
    ∃ t, exec .getc s = .next t ∧ t.reg serviceReg = b.setWidth 16 ∧
      FlagDescribes (b.setWidth 16) t.cond ∧ TrapFrame [linkReg, serviceReg] [] s t ∧
      t.runState = s.runState ∧ t.input = after ∧ SameOutput s t

/-- R75 and U6: GETC and IN do not complete when no byte ever comes (the stop is the model's form of a
wait, log 3). That R7 is already written and IN's whole prompt out while it waits are the orders D21
and D17 (log 17). -/
def Obligations.GetcAndInWaitWithoutEndWhenNoByteComes : Prop :=
  ∀ (s : State) (n : Nat), s.input = afterWaits n [] →
    (∃ w, exec .getc s = .fault (.awaitingInput w) ∧ TrapFrame [linkReg] [] s w ∧
      w.cond = s.cond ∧ w.output = s.output) ∧
    (acceptsOutput s s.config.inPrompt.length = true →
      ∃ w, exec .inp s = .fault (.awaitingInput w) ∧ TrapFrame [linkReg] [] s w ∧
        w.cond = s.cond ∧ w.output = s.output ++ s.config.inPrompt)

/-- R164: a read that fails ends GETC and IN as HostIOError, R0 and COND unchanged (D8, log 14). That
R7 is written and IN's whole prompt out at the failure are the orders D21 and D17 (log 17). -/
def Obligations.FailingReadEndsGetcAndIn : Prop :=
  ∀ (s : State) (n : Nat) (e : InputEvent) (rest : List InputEvent),
    e = .fails ∨ e = .readFails → s.input = afterWaits n (e :: rest) →
    (∃ t, exec .getc s = .next t ∧ t.runState = .halted .hostIOError ∧
      TrapFrame [linkReg] [] s t ∧ t.cond = s.cond ∧ t.output = s.output) ∧
    (acceptsOutput s s.config.inPrompt.length = true →
      ∃ t, exec .inp s = .next t ∧ t.runState = .halted .hostIOError ∧
        TrapFrame [linkReg] [] s t ∧ t.cond = s.cond ∧
        t.output = s.output ++ s.config.inPrompt)

/-- R132: OUT writes the low byte of R0. -/
def Obligations.OutWritesTheLowByte : Prop :=
  ∀ s : State, acceptsOutput s 1 = true →
    ∃ t, exec .out s = .next t ∧ t.output = s.output ++ [BitVec.ofNat 8 (s.reg serviceReg).toNat] ∧
      TrapFrame [linkReg] [] s t ∧ t.cond = s.cond ∧ t.runState = s.runState ∧ t.input = s.input

/-- R133: PUTS writes the low byte of each Word before the terminator, for a string that does not
cross KBSR (D10's premise; the others: StringServicesReadThroughTheKeyboardCells). -/
def Obligations.PutsWritesTheStringBeforeItsTerminator : Prop :=
  ∀ (s : State) (n : Nat), isString s (s.reg serviceReg) n = true → acceptsOutput s n = true →
    ∃ t, exec .puts s = .next t ∧
      t.output = s.output ++ putsText (stringWords s (s.reg serviceReg) n) ∧
      TrapFrame [linkReg] [] s t ∧ t.cond = s.cond ∧ t.runState = s.runState ∧ t.input = s.input

/-- R135: PUTSP writes each Word's low byte, and its high byte when that is not zero, for a string
that does not cross KBSR (D10's premise; the others: StringServicesReadThroughTheKeyboardCells). -/
def Obligations.PutspWritesTheBytesOfEachWord : Prop :=
  ∀ (s : State) (n : Nat) (bytes : List Byte),
    bytes = putspText (stringWords s (s.reg serviceReg) n) →
    isString s (s.reg serviceReg) n = true → acceptsOutput s bytes.length = true →
    ∃ t, exec .putsp s = .next t ∧ t.output = s.output ++ bytes ∧
      TrapFrame [linkReg] [] s t ∧ t.cond = s.cond ∧ t.runState = s.runState ∧ t.input = s.input

/-- R133, R135 and their corner case: PUTS and PUTSP over any string, KBSR crossed any number of
times. `ws` are the Words the string's reads return and `u` the state after them. The next read is
the terminator: all is written. It fails: what came before it is written, HostIOError. The output
fails within the last Word's bytes: the bytes before stay written, HostIOError, no read after it.
String reads are memory reads by D10 (log 12); the keyboard cells are D4 (log 13), a failure is
terminal by D8 (log 14), R7 is written first by D21 (log 17); the devices' form is log 3 and 6. -/
def Obligations.StringServicesReadThroughTheKeyboardCells : Prop :=
  ∀ (s u : State) (ws : List Word) (i : Instr) (text : List Word → List Byte),
    (i = .puts ∧ text = putsText ∨ i = .putsp ∧ text = putspText) →
    readsWords ws s (s.reg serviceReg) u →
    (∀ v, memRead (s.reg serviceReg + BitVec.ofNat 16 ws.length) u = .done 0x0000#16 v →
      acceptsOutput s (text ws).length = true →
      ∃ t, exec i s = .next t ∧ t.runState = s.runState ∧ t.output = s.output ++ text ws ∧
        t.input = v.input ∧ SameCellsBut [] v t ∧
        TrapFrame [linkReg] [kbsrAddr, kbdrAddr] s t ∧ t.cond = s.cond) ∧
    (∀ v, memRead (s.reg serviceReg + BitVec.ofNat 16 ws.length) u = .raised v →
      acceptsOutput s (text ws).length = true →
      ∃ t, exec i s = .next t ∧ t.runState = .halted .hostIOError ∧
        t.output = s.output ++ text ws ∧ t.input = v.input ∧ SameCellsBut [] v t ∧
        TrapFrame [linkReg] [kbsrAddr, kbdrAddr] s t ∧ t.cond = s.cond) ∧
    (∀ k, s.outputFailsAfter = some k → (text ws.dropLast).length ≤ k → k < (text ws).length →
      ∃ t, exec i s = .next t ∧ t.runState = .halted .hostIOError ∧
        t.output = s.output ++ (text ws).take k ∧ t.input = u.input ∧ SameCellsBut [] u t ∧
        TrapFrame [linkReg] [kbsrAddr, kbdrAddr] s t ∧ t.cond = s.cond)

/-- R133, R135, R164, U7 and log 12: whatever memory holds, PUTS and PUTSP have a next state if the
device offers no endless supply of a byte, or if the output device fails some time. An end as
HostIOError is counted: that a failing read or output ends the service so is D8 (log 14), and that R7
is the return address there too is D21 (log 17). That string reads are memory reads is D10 (log 12). -/
def Obligations.StringServicesCompleteUnlessInputIsEndless : Prop :=
  ∀ s : State, noEndlessInput s = true ∨ s.outputFailsAfter ≠ none →
    (∃ t, exec .puts s = .next t ∧ TrapFrame [linkReg] [kbsrAddr, kbdrAddr] s t) ∧
    (∃ t, exec .putsp s = .next t ∧ TrapFrame [linkReg] [kbsrAddr, kbdrAddr] s t)

/-- U7 and log 12: with no zero Word anywhere, an endless supply of a byte that is not 0 and an output
device that never fails, PUTS and PUTSP do not complete. -/
def Obligations.StringWithoutTerminatorNeverCompletes : Prop :=
  ∀ (s : State) (b : Byte) (rest : List InputEvent), b ≠ 0x00#8 → s.input = .endless b :: rest →
    s.outputFailsAfter = none → (∀ a, a ≠ kbsrAddr → s.cell a ≠ 0x0000#16) →
    exec .puts s = .fault .unterminatedString ∧ exec .putsp s = .fault .unterminatedString

/-- R134: IN: the prompt, the wait, the echo, the byte in R0 (order D17, log 17; the prompt's text is
a parameter, log 7). -/
def Obligations.InPromptsReadsEchoesAndReturns : Prop :=
  ∀ (s : State) (n : Nat) (b : Byte) (rest after : List InputEvent),
    (s.input = afterWaits n (.byte b :: rest) ∧ after = rest ∨
      s.input = afterWaits n (.endless b :: rest) ∧ after = .endless b :: rest) →
    acceptsOutput s (s.config.inPrompt.length + 1) = true →
    ∃ t, exec .inp s = .next t ∧ t.reg serviceReg = b.setWidth 16 ∧
      FlagDescribes (b.setWidth 16) t.cond ∧ TrapFrame [linkReg, serviceReg] [] s t ∧
      t.runState = s.runState ∧ t.input = after ∧ t.output = s.output ++ s.config.inPrompt ++ [b]

/-- R136, R165: HALT writes the notice (a parameter, log 7) and makes the normal end. -/
def Obligations.HaltWritesTheNoticeAndStops : Prop :=
  ∀ s : State, acceptsOutput s s.config.haltNotice.length = true →
    ∃ t, exec .halt s = .next t ∧ t.runState = .halted .haltRequested ∧
      t.output = s.output ++ s.config.haltNotice ∧ TrapFrame [linkReg] [] s t ∧
      t.cond = s.cond ∧ t.input = s.input

/-- R164 (D8, log 14; the count of log 6): an output that fails ends the service as HostIOError; the
bytes before it stay written and nothing after it is done. IN's order is D17 and R7 is written first
by D21 (log 17). The string clauses hold for a string cut before it reaches KBSR; the others are
StringServicesReadThroughTheKeyboardCells. -/
def Obligations.FailingOutputKeepsWhatWasWritten : Prop :=
  ∀ (s : State) (k : Nat), s.outputFailsAfter = some k →
    (k = 0 → ∃ t, exec .out s = .next t ∧ t.runState = .halted .hostIOError ∧
      t.output = s.output ∧ t.input = s.input ∧ TrapFrame [linkReg] [] s t ∧ t.cond = s.cond) ∧
    (k < s.config.haltNotice.length →
      ∃ t, exec .halt s = .next t ∧ t.runState = .halted .hostIOError ∧
        t.output = s.output ++ s.config.haltNotice.take k ∧ t.input = s.input ∧
        TrapFrame [linkReg] [] s t ∧ t.cond = s.cond) ∧
    (k < s.config.inPrompt.length →
      ∃ t, exec .inp s = .next t ∧ t.runState = .halted .hostIOError ∧
        t.output = s.output ++ s.config.inPrompt.take k ∧ t.input = s.input ∧
        TrapFrame [linkReg] [] s t ∧ t.cond = s.cond) ∧
    (∀ n b rest after, k = s.config.inPrompt.length →
      (s.input = afterWaits n (.byte b :: rest) ∧ after = rest ∨
        s.input = afterWaits n (.endless b :: rest) ∧ after = .endless b :: rest) →
      ∃ t, exec .inp s = .next t ∧ t.runState = .halted .hostIOError ∧
        t.output = s.output ++ s.config.inPrompt ∧ t.input = after ∧
        TrapFrame [linkReg] [] s t ∧ t.cond = s.cond) ∧
    (∀ n, plainWords s (s.reg serviceReg) n = true →
      k < (putsText (stringWords s (s.reg serviceReg) n)).length →
      ∃ t, exec .puts s = .next t ∧ t.runState = .halted .hostIOError ∧
        t.output = s.output ++ (putsText (stringWords s (s.reg serviceReg) n)).take k ∧
        t.input = s.input ∧ TrapFrame [linkReg] [] s t ∧ t.cond = s.cond) ∧
    (∀ n, plainWords s (s.reg serviceReg) n = true →
      k < (putspText (stringWords s (s.reg serviceReg) n)).length →
      ∃ t, exec .putsp s = .next t ∧ t.runState = .halted .hostIOError ∧
        t.output = s.output ++ (putspText (stringWords s (s.reg serviceReg) n)).take k ∧
        t.input = s.input ∧ TrapFrame [linkReg] [] s t ∧ t.cond = s.cond)

/-- R150, R151: every Word whose opcode is 8 or 13, whatever its other bits, changes RunState to
InvalidOpcode and nothing else. -/
def Obligations.ReservedOpcodesHaltAndChangeNothingElse : Prop :=
  ∀ s : State,
    exec .rti s = .next { s with runState := .halted .invalidOpcode } ∧
    exec .res s = .next { s with runState := .halted .invalidOpcode } ∧
    ∀ w : Word,
      (0x8000 ≤ w.toNat → w.toNat ≤ 0x8FFF →
        decode w = .rti ∧ exec (decode w) s = .next { s with runState := .halted .invalidOpcode }) ∧
      (0xD000 ≤ w.toNat → w.toNat ≤ 0xDFFF →
        decode w = .res ∧ exec (decode w) s = .next { s with runState := .halted .invalidOpcode })

/-! ### Rules about the whole machine -/

/-- R17: COND is written by the instructions that define a register, from that register, and by no
other. LDR among them is D12 (log 15); that an instruction whose device operation failed defines
nothing is R164 by D8 (log 14). -/
def Obligations.CondIsWrittenByDefinersOnly : Prop :=
  ∀ (i : Instr) (s t : State), exec i s = .next t →
    (definesReg i = none → t.cond = s.cond) ∧
    (∀ dr, definesReg i = some dr →
      FlagDescribes (t.reg dr) t.cond ∨
        (t.cond = s.cond ∧ t.reg dr = s.reg dr ∧ t.runState = .halted .hostIOError))

/-- R17: no instruction but BR reads COND: run from two states that differ in COND alone, it ends in
outcomes that differ in COND at most. -/
def Obligations.OnlyBranchReadsCond : Prop :=
  ∀ (i : Instr) (s : State) (c : Word), (∀ cond off9, i ≠ .br cond off9) →
    OutcomesSameButCond (exec i s) (exec i (s.setCond c))

/-- R13: after the increment, only BR, JMP, JSR and JSRR write PC. -/
def Obligations.OnlyBranchesAndJumpsWritePc : Prop :=
  ∀ (i : Instr) (s t : State), writesPc i = false → exec i s = .next t → t.pc = s.pc

/-- The table after R11: each instruction writes the registers the table gives it and no other; no
instruction changes the parameters or the cancellation request (R178). -/
def Obligations.InstructionsWriteOnlyTheirRegisters : Prop :=
  ∀ (i : Instr) (s t : State), exec i s = .next t →
    SameRegsBut (regsWritten i) s t ∧ t.config = s.config ∧ t.cancelAfter = s.cancelAfter

/-- R31, R36, R37: an instruction that is no store changes no cell but KBSR and KBDR, and changes none
at all unless one of its data reads is of KBSR; one that reads no data changes none. String reads
are memory reads by D10 (log 12); that no read follows the failing output that cuts a string is R164
by D8 (log 14). -/
def Obligations.OnlyStoresAndKbsrReadsChangeMemory : Prop :=
  ∀ (i : Instr) (s t : State), isStore i = false → exec i s = .next t →
    SameCellsBut [kbsrAddr, kbdrAddr] s t ∧ (readsAvoidKbsr i s → SameCellsBut [] s t)

/-- R48, R49: along every step the output so far is kept and only added to, and the input script is
only used up from the front. -/
def Obligations.OutputOnlyGrowsAndInputIsOnlyConsumed : Prop :=
  ∀ s t : State, step s = .next t → s.output <+: t.output ∧ t.input <:+ s.input

/-- R49: the output device is written by the trap services alone. -/
def Obligations.OnlyTrapServicesWriteOutput : Prop :=
  ∀ (i : Instr) (s t : State),
    (∀ v, i ≠ .trap v) → i ≠ .out → i ≠ .puts → i ≠ .inp → i ≠ .putsp → i ≠ .halt →
    exec i s = .next t → t.output = s.output
end

