-- ==== Sys2Proof/Laws/Memory.lean ====
section
/-! SUPPORT. The laws of the memory list: read after write, and every operation keeps the canonical form. -/

namespace Sys2Proof.Machine.Memory

variable {m : Memory} {a b : Nat} {v : Word}

/-! ### What a read sees -/

theorem read_clear_same (m : Memory) (a : Nat) : (m.clear a).read a = 0x0000#16 := by
  induction m with
  | nil => rfl
  | cons c rest ih =>
    by_cases h : c.1 = a
    · simpa [Memory.clear, h] using ih
    · have : Memory.clear (c :: rest) a = c :: Memory.clear rest a := by simp [Memory.clear, h]
      simp only [this, Memory.read]
      simpa [Ne.symm h] using ih

theorem read_clear_ne (m : Memory) (h : b ≠ a) : (m.clear a).read b = m.read b := by
  induction m with
  | nil => rfl
  | cons c rest ih =>
    by_cases hc : c.1 = a
    · have : Memory.clear (c :: rest) a = Memory.clear rest a := by simp [Memory.clear, hc]
      simp [this, ih, Memory.read, hc, h]
    · have : Memory.clear (c :: rest) a = c :: Memory.clear rest a := by simp [Memory.clear, hc]
      simp [this, Memory.read, ih]

theorem read_place (m : Memory) (a b : Nat) (v : Word) (hm : m.read a = 0x0000#16 ∨ b ≠ a)
    (hfree : ∀ c ∈ m, c.1 ≠ a) : (m.place a v).read b = if b = a then v else m.read b := by
  induction m with
  | nil => simp [Memory.place, Memory.read]
  | cons c rest ih =>
    have hc : c.1 ≠ a := hfree c (by simp)
    have hrest : ∀ d ∈ rest, d.1 ≠ a := fun d hd => hfree d (by simp [hd])
    have hm' : Memory.read rest a = 0x0000#16 ∨ b ≠ a := by
      rcases hm with hm | hm
      · left; simpa [Memory.read, Ne.symm hc] using hm
      · exact .inr hm
    by_cases hlt : a < c.1
    · simp [Memory.place, hlt, Memory.read]
    · simp only [Memory.place, hlt, if_false, Memory.read, ih hm' hrest]
      by_cases hb : b = a
      · simp [hb, Ne.symm hc]
      · simp only [hb, if_false]

theorem not_mem_clear (m : Memory) (a : Nat) : ∀ c ∈ m.clear a, c.1 ≠ a := by
  simp [Memory.clear]

theorem read_write_same (m : Memory) (a : Nat) (v : Word) : (m.write a v).read a = v := by
  unfold Memory.write
  split
  · rename_i h; rw [read_clear_same, h]
  · rw [read_place _ _ _ _ (.inl (read_clear_same m a)) (not_mem_clear m a)]; simp

theorem read_write_ne (m : Memory) (v : Word) (h : b ≠ a) : (m.write a v).read b = m.read b := by
  unfold Memory.write
  split
  · exact read_clear_ne m h
  · rw [read_place _ _ _ _ (.inr h) (not_mem_clear m a)]; simp [h, read_clear_ne m h]

/-! ### The canonical form -/

theorem wf_nil : Memory.wf [] := ⟨.nil, by simp⟩

theorem wf_clear (h : m.wf) (a : Nat) : (m.clear a).wf :=
  ⟨h.1.filter _, fun c hc => h.2 c (List.mem_of_mem_filter hc)⟩

theorem mem_place (m : Memory) (a : Nat) (v : Word) (c : Cell) :
    c ∈ m.place a v ↔ c = (a, v) ∨ c ∈ m := by
  induction m with
  | nil => simp [Memory.place]
  | cons d rest ih =>
    unfold Memory.place
    split <;> simp_all
    tauto

theorem wf_place (h : m.wf) (ha : a < 65536) (hv : v ≠ 0x0000#16) (hfree : ∀ c ∈ m, c.1 ≠ a) :
    (m.place a v).wf := by
  refine ⟨?_, fun c hc => ?_⟩
  · induction m with
    | nil => simp [Memory.place]
    | cons d rest ih =>
      have hd := List.pairwise_cons.mp h.1
      unfold Memory.place
      split
      · rename_i hlt
        refine List.pairwise_cons.mpr ⟨fun c hc => ?_, h.1⟩
        rcases List.mem_cons.mp hc with rfl | hc
        · exact hlt
        · exact Nat.lt_trans hlt (hd.1 c hc)
      · rename_i hlt
        refine List.pairwise_cons.mpr ⟨fun c hc => ?_,
          ih ⟨hd.2, fun c hc => h.2 c (by simp [hc])⟩ fun c hc => hfree c (by simp [hc])⟩
        have hne := hfree d (by simp)
        rcases (mem_place _ _ _ _).mp hc with rfl | hc
        · simp only at hne ⊢; omega
        · exact hd.1 c hc
  · rcases (mem_place _ _ _ _).mp hc with rfl | hc
    · exact ⟨ha, hv⟩
    · exact h.2 c hc

/-- Every store keeps the canonical form. -/
theorem wf_write (h : m.wf) (ha : a < 65536) (v : Word) : (m.write a v).wf := by
  unfold Memory.write
  split
  · exact wf_clear h a
  · exact wf_place (wf_clear h a) ha ‹_› (not_mem_clear m a)

end Sys2Proof.Machine.Memory
end

