-- ==== Sys2Proof/Laws/State.lean ====
section
/-! SUPPORT. What each named update does to each part of the state: one lemma per field per update, so that no later proof unfolds a record. -/

namespace Sys2Proof.Machine

section
variable (s : State)

/-! ### Registers and cells -/

@[simp] theorem State.reg_setReg (r q : Reg) (v : Word) :
    (s.setReg r v).reg q = if q = r then v else s.reg q := by
  simp only [State.reg, State.setReg, Vector.get_eq_getElem, Vector.getElem_set]
  simp only [Fin.ext_iff, eq_comm]

@[simp] theorem State.cell_store (a b v : Word) :
    (s.store a v).cell b = if b = a then v else s.cell b := by
  by_cases h : b = a
  · simp [State.cell, State.store, h, Memory.read_write_same]
  · have : b.toNat ≠ a.toNat := fun e => h (BitVec.eq_of_toNat_eq e)
    simp [State.cell, State.store, h, Memory.read_write_ne, this]

/-! ### `setReg` -/

@[simp] theorem State.setReg_cell (r : Reg) (v : Word) (c : Word) : (s.setReg r v).cell c = s.cell c := rfl
@[simp] theorem State.setReg_pc (r : Reg) (v : Word) : (s.setReg r v).pc = s.pc := rfl
@[simp] theorem State.setReg_cond (r : Reg) (v : Word) : (s.setReg r v).cond = s.cond := rfl
@[simp] theorem State.setReg_mem (r : Reg) (v : Word) : (s.setReg r v).mem = s.mem := rfl
@[simp] theorem State.setReg_runState (r : Reg) (v : Word) : (s.setReg r v).runState = s.runState := rfl
@[simp] theorem State.setReg_output (r : Reg) (v : Word) : (s.setReg r v).output = s.output := rfl
@[simp] theorem State.setReg_input (r : Reg) (v : Word) : (s.setReg r v).input = s.input := rfl
@[simp] theorem State.setReg_outputFailsAfter (r : Reg) (v : Word) : (s.setReg r v).outputFailsAfter = s.outputFailsAfter := rfl
@[simp] theorem State.setReg_cancelAfter (r : Reg) (v : Word) : (s.setReg r v).cancelAfter = s.cancelAfter := rfl
@[simp] theorem State.setReg_config (r : Reg) (v : Word) : (s.setReg r v).config = s.config := rfl

/-! ### `setPc` -/

@[simp] theorem State.setPc_reg (v : Word) (q : Reg) : (s.setPc v).reg q = s.reg q := rfl
@[simp] theorem State.setPc_cell (v : Word) (c : Word) : (s.setPc v).cell c = s.cell c := rfl
@[simp] theorem State.setPc_pc (v : Word) : (s.setPc v).pc = v := rfl
@[simp] theorem State.setPc_cond (v : Word) : (s.setPc v).cond = s.cond := rfl
@[simp] theorem State.setPc_mem (v : Word) : (s.setPc v).mem = s.mem := rfl
@[simp] theorem State.setPc_runState (v : Word) : (s.setPc v).runState = s.runState := rfl
@[simp] theorem State.setPc_output (v : Word) : (s.setPc v).output = s.output := rfl
@[simp] theorem State.setPc_input (v : Word) : (s.setPc v).input = s.input := rfl
@[simp] theorem State.setPc_outputFailsAfter (v : Word) : (s.setPc v).outputFailsAfter = s.outputFailsAfter := rfl
@[simp] theorem State.setPc_cancelAfter (v : Word) : (s.setPc v).cancelAfter = s.cancelAfter := rfl
@[simp] theorem State.setPc_config (v : Word) : (s.setPc v).config = s.config := rfl

/-! ### `setCond` -/

@[simp] theorem State.setCond_reg (v : Word) (q : Reg) : (s.setCond v).reg q = s.reg q := rfl
@[simp] theorem State.setCond_cell (v : Word) (c : Word) : (s.setCond v).cell c = s.cell c := rfl
@[simp] theorem State.setCond_pc (v : Word) : (s.setCond v).pc = s.pc := rfl
@[simp] theorem State.setCond_cond (v : Word) : (s.setCond v).cond = v := rfl
@[simp] theorem State.setCond_mem (v : Word) : (s.setCond v).mem = s.mem := rfl
@[simp] theorem State.setCond_runState (v : Word) : (s.setCond v).runState = s.runState := rfl
@[simp] theorem State.setCond_output (v : Word) : (s.setCond v).output = s.output := rfl
@[simp] theorem State.setCond_input (v : Word) : (s.setCond v).input = s.input := rfl
@[simp] theorem State.setCond_outputFailsAfter (v : Word) : (s.setCond v).outputFailsAfter = s.outputFailsAfter := rfl
@[simp] theorem State.setCond_cancelAfter (v : Word) : (s.setCond v).cancelAfter = s.cancelAfter := rfl
@[simp] theorem State.setCond_config (v : Word) : (s.setCond v).config = s.config := rfl

/-! ### `store` -/

@[simp] theorem State.store_reg (a v : Word) (q : Reg) : (s.store a v).reg q = s.reg q := rfl
@[simp] theorem State.store_pc (a v : Word) : (s.store a v).pc = s.pc := rfl
@[simp] theorem State.store_cond (a v : Word) : (s.store a v).cond = s.cond := rfl
@[simp] theorem State.store_mem (a v : Word) : (s.store a v).mem = s.mem.write a.toNat v := rfl
@[simp] theorem State.store_runState (a v : Word) : (s.store a v).runState = s.runState := rfl
@[simp] theorem State.store_output (a v : Word) : (s.store a v).output = s.output := rfl
@[simp] theorem State.store_input (a v : Word) : (s.store a v).input = s.input := rfl
@[simp] theorem State.store_outputFailsAfter (a v : Word) : (s.store a v).outputFailsAfter = s.outputFailsAfter := rfl
@[simp] theorem State.store_cancelAfter (a v : Word) : (s.store a v).cancelAfter = s.cancelAfter := rfl
@[simp] theorem State.store_config (a v : Word) : (s.store a v).config = s.config := rfl

/-! ### `raise` -/

@[simp] theorem State.raise_reg (k : HaltKind) (q : Reg) : (s.raise k).reg q = s.reg q := rfl
@[simp] theorem State.raise_cell (k : HaltKind) (c : Word) : (s.raise k).cell c = s.cell c := rfl
@[simp] theorem State.raise_pc (k : HaltKind) : (s.raise k).pc = s.pc := rfl
@[simp] theorem State.raise_cond (k : HaltKind) : (s.raise k).cond = s.cond := rfl
@[simp] theorem State.raise_mem (k : HaltKind) : (s.raise k).mem = s.mem := rfl
@[simp] theorem State.raise_runState (k : HaltKind) : (s.raise k).runState = .halted k := rfl
@[simp] theorem State.raise_output (k : HaltKind) : (s.raise k).output = s.output := rfl
@[simp] theorem State.raise_input (k : HaltKind) : (s.raise k).input = s.input := rfl
@[simp] theorem State.raise_outputFailsAfter (k : HaltKind) : (s.raise k).outputFailsAfter = s.outputFailsAfter := rfl
@[simp] theorem State.raise_cancelAfter (k : HaltKind) : (s.raise k).cancelAfter = s.cancelAfter := rfl
@[simp] theorem State.raise_config (k : HaltKind) : (s.raise k).config = s.config := rfl

/-! ### `setInput` -/

@[simp] theorem State.setInput_reg (l : List InputEvent) (q : Reg) : (s.setInput l).reg q = s.reg q := rfl
@[simp] theorem State.setInput_cell (l : List InputEvent) (c : Word) : (s.setInput l).cell c = s.cell c := rfl
@[simp] theorem State.setInput_pc (l : List InputEvent) : (s.setInput l).pc = s.pc := rfl
@[simp] theorem State.setInput_cond (l : List InputEvent) : (s.setInput l).cond = s.cond := rfl
@[simp] theorem State.setInput_mem (l : List InputEvent) : (s.setInput l).mem = s.mem := rfl
@[simp] theorem State.setInput_runState (l : List InputEvent) : (s.setInput l).runState = s.runState := rfl
@[simp] theorem State.setInput_output (l : List InputEvent) : (s.setInput l).output = s.output := rfl
@[simp] theorem State.setInput_input (l : List InputEvent) : (s.setInput l).input = l := rfl
@[simp] theorem State.setInput_outputFailsAfter (l : List InputEvent) : (s.setInput l).outputFailsAfter = s.outputFailsAfter := rfl
@[simp] theorem State.setInput_cancelAfter (l : List InputEvent) : (s.setInput l).cancelAfter = s.cancelAfter := rfl
@[simp] theorem State.setInput_config (l : List InputEvent) : (s.setInput l).config = s.config := rfl

/-! ### `emit` -/

@[simp] theorem State.emit_reg (b : Byte) (q : Reg) : (s.emit b).reg q = s.reg q := rfl
@[simp] theorem State.emit_cell (b : Byte) (c : Word) : (s.emit b).cell c = s.cell c := rfl
@[simp] theorem State.emit_pc (b : Byte) : (s.emit b).pc = s.pc := rfl
@[simp] theorem State.emit_cond (b : Byte) : (s.emit b).cond = s.cond := rfl
@[simp] theorem State.emit_mem (b : Byte) : (s.emit b).mem = s.mem := rfl
@[simp] theorem State.emit_runState (b : Byte) : (s.emit b).runState = s.runState := rfl
@[simp] theorem State.emit_output (b : Byte) : (s.emit b).output = s.output ++ [b] := rfl
@[simp] theorem State.emit_input (b : Byte) : (s.emit b).input = s.input := rfl
@[simp] theorem State.emit_outputFailsAfter (b : Byte) : (s.emit b).outputFailsAfter = s.outputFailsAfter := rfl
@[simp] theorem State.emit_cancelAfter (b : Byte) : (s.emit b).cancelAfter = s.cancelAfter := rfl
@[simp] theorem State.emit_config (b : Byte) : (s.emit b).config = s.config := rfl

/-! ### `setOutputFails` -/

@[simp] theorem State.setOutputFails_reg (n : Option Nat) (q : Reg) : (s.setOutputFails n).reg q = s.reg q := rfl
@[simp] theorem State.setOutputFails_cell (n : Option Nat) (c : Word) : (s.setOutputFails n).cell c = s.cell c := rfl
@[simp] theorem State.setOutputFails_pc (n : Option Nat) : (s.setOutputFails n).pc = s.pc := rfl
@[simp] theorem State.setOutputFails_cond (n : Option Nat) : (s.setOutputFails n).cond = s.cond := rfl
@[simp] theorem State.setOutputFails_mem (n : Option Nat) : (s.setOutputFails n).mem = s.mem := rfl
@[simp] theorem State.setOutputFails_runState (n : Option Nat) : (s.setOutputFails n).runState = s.runState := rfl
@[simp] theorem State.setOutputFails_output (n : Option Nat) : (s.setOutputFails n).output = s.output := rfl
@[simp] theorem State.setOutputFails_input (n : Option Nat) : (s.setOutputFails n).input = s.input := rfl
@[simp] theorem State.setOutputFails_outputFailsAfter (n : Option Nat) : (s.setOutputFails n).outputFailsAfter = n := rfl
@[simp] theorem State.setOutputFails_cancelAfter (n : Option Nat) : (s.setOutputFails n).cancelAfter = s.cancelAfter := rfl
@[simp] theorem State.setOutputFails_config (n : Option Nat) : (s.setOutputFails n).config = s.config := rfl

/-! ### `setCancel` -/

@[simp] theorem State.setCancel_reg (n : Option Nat) (q : Reg) : (s.setCancel n).reg q = s.reg q := rfl
@[simp] theorem State.setCancel_cell (n : Option Nat) (c : Word) : (s.setCancel n).cell c = s.cell c := rfl
@[simp] theorem State.setCancel_pc (n : Option Nat) : (s.setCancel n).pc = s.pc := rfl
@[simp] theorem State.setCancel_cond (n : Option Nat) : (s.setCancel n).cond = s.cond := rfl
@[simp] theorem State.setCancel_mem (n : Option Nat) : (s.setCancel n).mem = s.mem := rfl
@[simp] theorem State.setCancel_runState (n : Option Nat) : (s.setCancel n).runState = s.runState := rfl
@[simp] theorem State.setCancel_output (n : Option Nat) : (s.setCancel n).output = s.output := rfl
@[simp] theorem State.setCancel_input (n : Option Nat) : (s.setCancel n).input = s.input := rfl
@[simp] theorem State.setCancel_outputFailsAfter (n : Option Nat) : (s.setCancel n).outputFailsAfter = s.outputFailsAfter := rfl
@[simp] theorem State.setCancel_cancelAfter (n : Option Nat) : (s.setCancel n).cancelAfter = n := rfl
@[simp] theorem State.setCancel_config (n : Option Nat) : (s.setCancel n).config = s.config := rfl

/-! ### The compound updates -/

@[simp] theorem State.reg_link (q : Reg) :
    s.link.reg q = if q = linkReg then s.pc else s.reg q := by simp [State.link]
@[simp] theorem State.link_cell (c : Word) : s.link.cell c = s.cell c := rfl
@[simp] theorem State.link_pc : s.link.pc = s.pc := rfl
@[simp] theorem State.link_cond : s.link.cond = s.cond := rfl
@[simp] theorem State.link_mem : s.link.mem = s.mem := rfl
@[simp] theorem State.link_runState : s.link.runState = s.runState := rfl
@[simp] theorem State.link_output : s.link.output = s.output := rfl
@[simp] theorem State.link_input : s.link.input = s.input := rfl
@[simp] theorem State.link_outputFailsAfter : s.link.outputFailsAfter = s.outputFailsAfter := rfl
@[simp] theorem State.link_cancelAfter : s.link.cancelAfter = s.cancelAfter := rfl
@[simp] theorem State.link_config : s.link.config = s.config := rfl

@[simp] theorem State.setCC_reg (r q : Reg) : (s.setCC r).reg q = s.reg q := rfl
@[simp] theorem State.setCC_cell (r : Reg) (c : Word) : (s.setCC r).cell c = s.cell c := rfl
@[simp] theorem State.setCC_pc (r : Reg) : (s.setCC r).pc = s.pc := rfl
@[simp] theorem State.setCC_cond (r : Reg) : (s.setCC r).cond = condOf (s.reg r) := rfl
@[simp] theorem State.setCC_mem (r : Reg) : (s.setCC r).mem = s.mem := rfl
@[simp] theorem State.setCC_runState (r : Reg) : (s.setCC r).runState = s.runState := rfl
@[simp] theorem State.setCC_output (r : Reg) : (s.setCC r).output = s.output := rfl
@[simp] theorem State.setCC_input (r : Reg) : (s.setCC r).input = s.input := rfl
@[simp] theorem State.setCC_outputFailsAfter (r : Reg) : (s.setCC r).outputFailsAfter = s.outputFailsAfter := rfl
@[simp] theorem State.setCC_cancelAfter (r : Reg) : (s.setCC r).cancelAfter = s.cancelAfter := rfl
@[simp] theorem State.setCC_config (r : Reg) : (s.setCC r).config = s.config := rfl

@[simp] theorem State.define_reg (dr q : Reg) (v : Word) :
    (s.define dr v).reg q = if q = dr then v else s.reg q := by simp [State.define]
@[simp] theorem State.define_cond (dr : Reg) (v : Word) : (s.define dr v).cond = condOf v := by
  simp [State.define]
@[simp] theorem State.define_cell (dr : Reg) (v c : Word) : (s.define dr v).cell c = s.cell c := rfl
@[simp] theorem State.define_pc (dr : Reg) (v : Word) : (s.define dr v).pc = s.pc := rfl
@[simp] theorem State.define_mem (dr : Reg) (v : Word) : (s.define dr v).mem = s.mem := rfl
@[simp] theorem State.define_runState (dr : Reg) (v : Word) : (s.define dr v).runState = s.runState := rfl
@[simp] theorem State.define_output (dr : Reg) (v : Word) : (s.define dr v).output = s.output := rfl
@[simp] theorem State.define_input (dr : Reg) (v : Word) : (s.define dr v).input = s.input := rfl
@[simp] theorem State.define_outputFailsAfter (dr : Reg) (v : Word) : (s.define dr v).outputFailsAfter = s.outputFailsAfter := rfl
@[simp] theorem State.define_cancelAfter (dr : Reg) (v : Word) : (s.define dr v).cancelAfter = s.cancelAfter := rfl
@[simp] theorem State.define_config (dr : Reg) (v : Word) : (s.define dr v).config = s.config := rfl

/-! ### The state after reset -/

@[simp] theorem State.start_reg (c : Config) (m : Memory) (r : Reg) : (State.start c m).reg r = 0x0000#16 := by
  simp [State.start, State.reg, Vector.get_eq_getElem]
@[simp] theorem State.start_cell (c : Config) (m : Memory) (a : Word) :
    (State.start c m).cell a = m.read a.toNat := rfl

end

end Sys2Proof.Machine
end

