-- ==== Sys2Proof/Laws/Results.lean ====
section
/-! SUPPORT. Chaining: what `bind`, `andThen` and `outcome` come to, and one rule for what every end of a chain satisfies. -/

namespace Sys2Proof.Machine

variable {α β : Type}

@[simp] theorem Result.bind_done (v : α) (s : State) (k : α → State → Result β) :
    (Result.done v s).bind k = k v s := rfl
@[simp] theorem Result.bind_raised (s : State) (k : α → State → Result β) :
    (Result.raised s).bind k = .raised s := rfl
@[simp] theorem Result.bind_stuck (f : Fault) (k : α → State → Result β) :
    (Result.stuck f).bind k = .stuck f := rfl

@[simp] theorem Result.andThen_done (v : α) (s : State)
    (k : α → State → Host.Outcome State Fault Refusal) : (Result.done v s).andThen k = k v s := rfl
@[simp] theorem Result.andThen_raised (s : State)
    (k : α → State → Host.Outcome State Fault Refusal) :
    (Result.raised s).andThen k = .next s := rfl
@[simp] theorem Result.andThen_stuck (f : Fault)
    (k : α → State → Host.Outcome State Fault Refusal) :
    (Result.stuck f : Result α).andThen k = .fault f := rfl

@[simp] theorem Result.outcome_done (s : State) : (Result.done () s).outcome = .next s := rfl
@[simp] theorem Result.outcome_raised (s : State) : (Result.raised s).outcome = .next s := rfl
@[simp] theorem Result.outcome_stuck (f : Fault) : (Result.stuck f).outcome = .fault f := rfl

/-- Every end of an operation: `D` of a value and state it finishes with, `R` of a state it raised
in. An operation without an end satisfies it. -/
def Result.Ends (D : α → State → Prop) (R : State → Prop) : Result α → Prop
  | .done v s => D v s
  | .raised s => R s
  | .stuck _ => True

theorem Result.Ends.bind {D : α → State → Prop} {R R' : State → Prop} {E : β → State → Prop}
    {r : Result α} {k : α → State → Result β} (h : r.Ends D R) (hR : ∀ s, R s → R' s)
    (hk : ∀ v s, D v s → (k v s).Ends E R') : (r.bind k).Ends E R' := by
  cases r with
  | done v s => exact hk v s h
  | raised s => exact hR s h
  | stuck f => trivial

theorem Result.Ends.mono {D E : α → State → Prop} {R R' : State → Prop} {r : Result α}
    (h : r.Ends D R) (hD : ∀ v s, D v s → E v s) (hR : ∀ s, R s → R' s) : r.Ends E R' := by
  cases r with
  | done v s => exact hD v s h
  | raised s => exact hR s h
  | stuck f => trivial

/-- The next states of an outcome. -/
def NextAll (P : State → Prop) : Host.Outcome State Fault Refusal → Prop
  | .next t => P t
  | .fault _ => True
  | .refused _ => True

theorem NextAll.next {P : State → Prop} {o : Host.Outcome State Fault Refusal} {t : State}
    (h : NextAll P o) (e : o = .next t) : P t := by subst e; exact h

theorem Result.Ends.andThen {D : α → State → Prop} {R P : State → Prop} {r : Result α}
    {k : α → State → Host.Outcome State Fault Refusal} (h : r.Ends D R) (hR : ∀ s, R s → P s)
    (hk : ∀ v s, D v s → NextAll P (k v s)) : NextAll P (r.andThen k) := by
  cases r with
  | done v s => exact hk v s h
  | raised s => exact hR s h
  | stuck f => trivial

theorem Result.Ends.outcome {D : Unit → State → Prop} {R P : State → Prop} {r : Result Unit}
    (h : r.Ends D R) (hD : ∀ s, D () s → P s) (hR : ∀ s, R s → P s) : NextAll P r.outcome :=
  h.andThen hR fun _ s hs => hD s hs

end Sys2Proof.Machine
end

