-- ==== Sys2Proof/Laws/Cycle.lean ====
section
/-! SUPPORT. What the parts of a step around the instruction come to, and that the loader keeps memory canonical. -/

namespace Sys2Proof.Machine

/-- A running machine with no request coming fetches and runs. -/
theorem step_of_running {s : State} (hr : s.runState = .running) (hc : s.cancelAfter = none) :
    step s = (fetch s).andThen fun ir s1 => exec (decode ir) s1 := by
  simp [step, hr, runCycle, sampleCancel, hc]

/-- A running machine whose request is not raised fetches and runs, one step boundary later. -/
theorem step_of_not_cancelled {s : State} (hr : s.runState = .running)
    (hc : s.cancelAfter ≠ some 0) :
    step s = (fetch (s.setCancel (s.cancelAfter.map fun n => n - 1))).andThen
      fun ir s1 => exec (decode ir) s1 := by
  simp only [step, hr, runCycle, sampleCancel]
  split
  · rename_i h
    have e : s.setCancel (s.cancelAfter.map fun n => n - 1) = s := by
      cases s
      simp_all [State.setCancel]
    rw [e]
    rfl
  · contradiction
  · rename_i n h
    simp [h]

/-- A fetch away from KBSR. -/
theorem fetch_of_ne {s : State} (h : s.pc ≠ kbsrAddr) :
    fetch s = .done (s.cell s.pc) (s.setPc (s.pc + 1#16)) := by
  simp [fetch, memRead, h]

/-- The three answers of the cancellation sample. -/
theorem sampleCancel_cases (s : State) :
    (s.cancelAfter = none ∧ sampleCancel s = .done () s) ∨
      (s.cancelAfter = some 0 ∧ sampleCancel s = .raised (s.raise .cancelled)) ∨
      ∃ n, s.cancelAfter = some (n + 1) ∧ sampleCancel s = .done () (s.setCancel (some n)) := by
  unfold sampleCancel
  split
  · exact .inl ⟨‹_›, rfl⟩
  · exact .inr (.inl ⟨‹_›, rfl⟩)
  · exact .inr (.inr ⟨_, ‹_›, rfl⟩)

/-- The loader's store keeps the canonical form. -/
theorem wf_populate (origin : Word) (words : List Word) {m : Memory} (h : m.wf) :
    (populate origin words m).wf := by
  induction words generalizing origin m with
  | nil => exact h
  | cons w rest ih => exact ih _ (Memory.wf_write h origin.isLt w)

end Sys2Proof.Machine
end

