-- ==== Sys2Proof/Laws/Devices.lean ====
section
/-! SUPPORT. What each device operation, memory read and string walk can do: one lemma per operation, for the proofs to cite. -/

namespace Sys2Proof.Machine

/-! ### What input and output may touch -/

/-- What any chain of device operations and memory reads leaves: registers, PC, COND, the request and
the parameters are as they were, no cell but KBSR and KBDR is changed, memory stays canonical,
output is only added to and the script is only used up. -/
structure IoEffect (s t : State) : Prop where
  reg : ∀ r, t.reg r = s.reg r
  pc : t.pc = s.pc
  cond : t.cond = s.cond
  cancel : t.cancelAfter = s.cancelAfter
  config : t.config = s.config
  cells : SameCellsBut [kbsrAddr, kbdrAddr] s t
  wf : s.mem.wf → t.mem.wf
  output : s.output <+: t.output
  input : t.input <:+ s.input

theorem IoEffect.rfl' (s : State) : IoEffect s s :=
  ⟨fun _ => rfl, rfl, rfl, rfl, rfl, fun _ _ => rfl, id, List.prefix_refl _, List.suffix_refl _⟩

theorem IoEffect.trans {s t u : State} (h : IoEffect s t) (k : IoEffect t u) : IoEffect s u :=
  ⟨fun r => (k.reg r).trans (h.reg r), k.pc.trans h.pc, k.cond.trans h.cond,
    k.cancel.trans h.cancel, k.config.trans h.config,
    fun a ha => (k.cells a ha).trans (h.cells a ha), fun w => k.wf (h.wf w),
    h.output.trans k.output, k.input.trans h.input⟩

/-- An operation finished: its effect, and RunState untouched. -/
abbrev IoDone (s t : State) : Prop := IoEffect s t ∧ t.runState = s.runState

/-- A device failed: its effect, RunState says so, and a failure was there to happen. -/
abbrev IoRaised (s t : State) : Prop :=
  IoEffect s t ∧ t.runState = .halted .hostIOError ∧
    (InputEvent.fails ∈ s.input ∨ InputEvent.readFails ∈ s.input ∨ s.outputFailsAfter ≠ none)

/-- What an operation that keeps its effect on input and output inside `IoEffect` satisfies. The
last part of a finished operation says that no failure appeared that was not there before. -/
abbrev IoOp {α : Type} (s : State) (r : Result α) : Prop :=
  r.Ends (fun _ t => IoDone s t ∧ (s.outputFailsAfter = none → t.outputFailsAfter = none))
    (IoRaised s)

/-- Operations chain: the second starts where the first finished. -/
theorem IoOp.bind {α β : Type} {s : State} {r : Result α} {k : α → State → Result β}
    (h : IoOp s r) (hk : ∀ v t, IoOp t (k v t)) : IoOp s (r.bind k) := by
  refine Result.Ends.bind h (fun _ ht => ht) fun v t ⟨⟨he, hr⟩, hn⟩ => ?_
  refine (hk v t).mono (fun _ u ⟨⟨he', hr'⟩, hn'⟩ => ?_) fun u ⟨he', hr', hf⟩ => ?_
  · exact ⟨⟨he.trans he', hr'.trans hr⟩, fun e => hn' (hn e)⟩
  · refine ⟨he.trans he', hr', ?_⟩
    rcases hf with hf | hf | hf
    · exact .inl (he.input.subset hf)
    · exact .inr (.inl (he.input.subset hf))
    · exact .inr (.inr fun e => hf (hn e))

theorem IoOp.done {α : Type} (s : State) (v : α) : IoOp s (.done v s) :=
  ⟨⟨IoEffect.rfl' s, rfl⟩, id⟩

/-- A KBSR or KBDR update is within the effect. -/
theorem ioDone_store {s : State} {a : Word} (ha : a ∈ [kbsrAddr, kbdrAddr]) (v : Word) :
    IoDone s (s.store a v) :=
  ⟨⟨fun _ => rfl, rfl, rfl, rfl, rfl,
    fun c hc => by
      have : c ≠ a := fun e => hc (e ▸ ha)
      simp [this],
    fun h => Memory.wf_write h a.isLt v, List.prefix_refl _, List.suffix_refl _⟩, rfl⟩

theorem IoOp.stored {α : Type} {s : State} {a : Word} (ha : a ∈ [kbsrAddr, kbdrAddr]) (v : Word)
    {r : Result α} (h : IoOp (s.store a v) r) : IoOp s r := by
  have hs := ioDone_store (s := s) ha v
  refine Result.Ends.mono h (fun _ t ⟨⟨he, hr⟩, hn⟩ => ?_) fun t ⟨he, hr, hf⟩ => ?_
  · exact ⟨⟨hs.1.trans he, hr⟩, hn⟩
  · exact ⟨hs.1.trans he, hr, hf⟩

/-! ### The devices -/

theorem ioEffect_setInput {s : State} {l : List InputEvent} (h : l <:+ s.input) :
    IoEffect s (s.setInput l) :=
  ⟨fun _ => rfl, rfl, rfl, rfl, rfl, fun _ _ => rfl, id, List.prefix_refl _, h⟩

theorem inPoll_io (s : State) : IoOp s (inPoll s) := by
  unfold inPoll
  split
  · exact IoOp.done s _
  · exact IoOp.done s _
  · rename_i rest h
    exact ⟨⟨ioEffect_setInput (h ▸ List.suffix_cons _ _), rfl⟩, id⟩
  · rename_i rest h
    exact ⟨⟨fun _ => rfl, rfl, rfl, rfl, rfl, fun _ _ => rfl, id, List.prefix_refl _,
      List.suffix_refl _⟩, rfl, .inl (by simp [h])⟩
  · exact IoOp.done s _
  · exact IoOp.done s _

/-- A read leaves a suffix of the script, or fails by an answer the script holds. -/
theorem takeByte_cases (l : List InputEvent) :
    match takeByte l with
    | .byte _ rest => rest <:+ l
    | .fails => InputEvent.fails ∈ l ∨ InputEvent.readFails ∈ l
    | .never => True := by
  induction l with
  | nil => simp [takeByte]
  | cons e rest ih =>
    cases e with
    | byte b => simp [takeByte]
    | notYet =>
      simp only [takeByte]
      revert ih
      cases takeByte rest with
      | byte b r => exact fun h => h.trans (List.suffix_cons _ _)
      | fails => rintro (h | h) <;> simp [h]
      | never => exact id
    | fails => simp [takeByte]
    | readFails => simp [takeByte]
    | endless b => simp [takeByte]

theorem inRead_io (s : State) : IoOp s (inRead s) := by
  have h := takeByte_cases s.input
  unfold inRead
  revert h
  cases takeByte s.input with
  | byte b rest => exact fun h => ⟨⟨ioEffect_setInput h, rfl⟩, id⟩
  | fails =>
    intro h
    refine ⟨⟨fun _ => rfl, rfl, rfl, rfl, rfl, fun _ _ => rfl, id, List.prefix_refl _,
      List.suffix_refl _⟩, rfl, ?_⟩
    rcases h with h | h
    · exact .inl h
    · exact .inr (.inl h)
  | never => exact fun _ => trivial

theorem outWrite_io (b : Byte) (s : State) : IoOp s (outWrite b s) := by
  unfold outWrite
  split
  · rename_i h
    exact ⟨⟨⟨fun _ => rfl, rfl, rfl, rfl, rfl, fun _ _ => rfl, id, List.prefix_append _ _,
      List.suffix_refl _⟩, rfl⟩, id⟩
  · rename_i h
    exact ⟨⟨fun _ => rfl, rfl, rfl, rfl, rfl, fun _ _ => rfl, id, List.prefix_refl _,
      List.suffix_refl _⟩, rfl, .inr (.inr (by simp [h]))⟩
  · rename_i n h
    exact ⟨⟨⟨fun _ => rfl, rfl, rfl, rfl, rfl, fun _ _ => rfl, id, List.prefix_append _ _,
      List.suffix_refl _⟩, rfl⟩, by simp [h]⟩

theorem outWriteAll_io (bytes : List Byte) (s : State) : IoOp s (outWriteAll bytes s) := by
  induction bytes generalizing s with
  | nil => exact IoOp.done s _
  | cons b rest ih => exact (outWrite_io b s).bind fun _ t => ih t

/-- The state after the output device has taken `bytes`. -/
def State.wrote (s : State) (bytes : List Byte) : State :=
  { s with
    output := s.output ++ bytes
    outputFailsAfter := s.outputFailsAfter.map fun k => k - bytes.length }

theorem State.wrote_nil (s : State) : s.wrote [] = s := by
  cases s; simp [State.wrote]

theorem outWrite_accepted {b : Byte} {s : State} (h : acceptsOutput s 1 = true) :
    outWrite b s = .done () (s.wrote [b]) := by
  unfold outWrite State.wrote State.emit State.setOutputFails
  cases hk : s.outputFailsAfter with
  | none => simp
  | some k =>
    cases k with
    | zero => simp [acceptsOutput, hk] at h
    | succ k => simp

theorem acceptsOutput_wrote {s : State} {bytes : List Byte} {n : Nat}
    (h : acceptsOutput s (bytes.length + n) = true) : acceptsOutput (s.wrote bytes) n = true := by
  unfold acceptsOutput State.wrote at *
  cases hk : s.outputFailsAfter <;> simp_all
  omega

theorem acceptsOutput_mono {s : State} {m n : Nat} (h : acceptsOutput s n = true) (hm : m ≤ n) :
    acceptsOutput s m = true := by
  unfold acceptsOutput at *
  cases hk : s.outputFailsAfter <;> simp_all
  omega

theorem State.wrote_append (s : State) (xs ys : List Byte) :
    (s.wrote xs).wrote ys = s.wrote (xs ++ ys) := by
  simp only [State.wrote, List.append_assoc, Option.map_map, List.length_append]
  congr 2
  funext k
  simp [Nat.sub_sub]

/-- A device that accepts them takes all the bytes. -/
theorem outWriteAll_accepted {bytes : List Byte} {s : State}
    (h : acceptsOutput s bytes.length = true) : outWriteAll bytes s = .done () (s.wrote bytes) := by
  induction bytes generalizing s with
  | nil => simp [outWriteAll, State.wrote_nil]
  | cons b rest ih =>
    have h1 : acceptsOutput s 1 = true := acceptsOutput_mono h (by simp)
    have h2 : acceptsOutput (s.wrote [b]) rest.length = true :=
      acceptsOutput_wrote (by simpa [Nat.add_comm] using h)
    simp [outWriteAll, outWrite_accepted h1, ih h2, State.wrote_append]

/-- A device that fails after `k` bytes takes those and no more (R164). -/
theorem outWriteAll_failing {bytes : List Byte} {s : State} {k : Nat}
    (h : s.outputFailsAfter = some k) (hk : k < bytes.length) :
    outWriteAll bytes s = .raised ((s.wrote (bytes.take k)).raise .hostIOError) := by
  induction bytes generalizing s k with
  | nil => simp at hk
  | cons b rest ih =>
    cases k with
    | zero => simp [outWriteAll, outWrite, h, State.wrote_nil]
    | succ k =>
      have h1 : acceptsOutput s 1 = true := by simp [acceptsOutput, h]
      have h2 : (s.wrote [b]).outputFailsAfter = some k := by simp [State.wrote, h]
      simp [outWriteAll, outWrite_accepted h1, ih h2 (by simpa using hk), State.wrote_append]

theorem takeByte_afterWaits (n : Nat) (l : List InputEvent) :
    takeByte (afterWaits n l) = takeByte l := by
  induction n with
  | zero => rfl
  | succ n ih => simpa [afterWaits, List.replicate_succ, takeByte] using ih

@[simp] theorem State.wrote_reg (s : State) (l : List Byte) (r : Reg) :
    (s.wrote l).reg r = s.reg r := rfl
@[simp] theorem State.wrote_cell (s : State) (l : List Byte) (a : Word) :
    (s.wrote l).cell a = s.cell a := rfl
@[simp] theorem State.wrote_pc (s : State) (l : List Byte) : (s.wrote l).pc = s.pc := rfl
@[simp] theorem State.wrote_cond (s : State) (l : List Byte) : (s.wrote l).cond = s.cond := rfl
@[simp] theorem State.wrote_mem (s : State) (l : List Byte) : (s.wrote l).mem = s.mem := rfl
@[simp] theorem State.wrote_runState (s : State) (l : List Byte) :
    (s.wrote l).runState = s.runState := rfl
@[simp] theorem State.wrote_input (s : State) (l : List Byte) : (s.wrote l).input = s.input := rfl
@[simp] theorem State.wrote_output (s : State) (l : List Byte) :
    (s.wrote l).output = s.output ++ l := rfl
@[simp] theorem State.wrote_outputFailsAfter (s : State) (l : List Byte) :
    (s.wrote l).outputFailsAfter = s.outputFailsAfter.map fun k => k - l.length := rfl
@[simp] theorem State.wrote_cancelAfter (s : State) (l : List Byte) :
    (s.wrote l).cancelAfter = s.cancelAfter := rfl
@[simp] theorem State.wrote_config (s : State) (l : List Byte) :
    (s.wrote l).config = s.config := rfl

/-! ### Memory reads -/

theorem pollKeyboard_io (s : State) : IoOp s (pollKeyboard s) := by
  refine (inPoll_io s).bind fun ready t => ?_
  split
  · refine IoOp.stored (a := kbsrAddr) (by simp) kbsrReady ((inRead_io _).bind fun b u => ?_)
    exact IoOp.stored (a := kbdrAddr) (by simp) _ (IoOp.done _ _)
  · exact IoOp.stored (a := kbsrAddr) (by simp) _ (IoOp.done _ _)

theorem memRead_io (a : Word) (s : State) : IoOp s (memRead a s) := by
  unfold memRead
  split
  · exact (pollKeyboard_io s).bind fun _ t => IoOp.done t _
  · exact IoOp.done s _

@[simp] theorem memRead_ne {a : Word} (h : a ≠ kbsrAddr) (s : State) :
    memRead a s = .done (s.cell a) s := by simp [memRead, h]

theorem kbsrAddr_ne_kbdrAddr : kbsrAddr ≠ kbdrAddr := by decide

/-- A byte ready: KBSR, then KBDR (R31). -/
theorem pollKeyboard_ready {s : State} {b : Byte} {rest : List InputEvent}
    (h : readyByte s = some (b, rest)) :
    pollKeyboard s =
      .done () (((s.store kbsrAddr kbsrReady).setInput rest).store kbdrAddr (zext8 b)) := by
  unfold readyByte at h
  unfold pollKeyboard inPoll
  split at h <;> simp_all [inRead, takeByte]
  obtain ⟨rfl, rfl⟩ := h
  rfl

/-- No byte ready: KBSR is cleared (R31). -/
theorem pollKeyboard_none {s : State} (h : noKeyReady s = true) :
    pollKeyboard s = .done () ((s.setInput s.input.tail).store kbsrAddr 0x0000#16) := by
  unfold noKeyReady at h
  unfold pollKeyboard inPoll
  split at h <;> simp_all
  cases s
  simp_all [State.setInput]

/-- The poll fails: nothing is stored (R164). -/
theorem pollKeyboard_fails {s : State} {rest : List InputEvent} (h : s.input = .fails :: rest) :
    pollKeyboard s = .raised (s.raise .hostIOError) := by
  simp [pollKeyboard, inPoll, h]

/-- The read after a true poll fails: KBSR is stored, KBDR is not (R164). -/
theorem pollKeyboard_readFails {s : State} {rest : List InputEvent}
    (h : s.input = .readFails :: rest) :
    pollKeyboard s = .raised ((s.store kbsrAddr kbsrReady).raise .hostIOError) := by
  simp [pollKeyboard, inPoll, h, inRead, takeByte]

theorem memRead_kbsr (s : State) :
    memRead kbsrAddr s = (pollKeyboard s).bind fun _ t => .done (t.cell kbsrAddr) t := by
  simp [memRead]

/-! ### Strings -/

theorem walkString_io (bytesOf : Word → List Byte) (n : Nat) (a : Word) (s : State) :
    IoOp s (walkString bytesOf n a s) := by
  induction n generalizing a s with
  | zero => trivial
  | succ n ih =>
    refine (memRead_io a s).bind fun w t => ?_
    split
    · exact IoOp.done t _
    · exact (outWriteAll_io _ t).bind fun _ u => ih _ u

end Sys2Proof.Machine
end

