-- ==== Sys2Proof/Laws/Encoding.lean ====
section
/-! SUPPORT. Where each field of each instruction format lies in the Word: what the decoder's field functions read from a Word built as the format tables of R53 draw it. -/

namespace Sys2Proof

/-! ### Fields of a concatenation -/

theorem extract_low {m k : Nat} (x : BitVec m) (y : BitVec k) (lo n : Nat) (h : lo + n ≤ k) :
    (x ++ y).extractLsb' lo n = y.extractLsb' lo n := by
  apply BitVec.eq_of_getLsbD_eq
  intro i hi
  have : lo + i < k := by omega
  simp only [BitVec.getLsbD_extractLsb', BitVec.getLsbD_append, this, if_true]

theorem extract_high {m k : Nat} (x : BitVec m) (y : BitVec k) (lo n : Nat) (h : k ≤ lo) :
    (x ++ y).extractLsb' lo n = x.extractLsb' (lo - k) n := by
  apply BitVec.eq_of_getLsbD_eq
  intro i hi
  have h1 : ¬ lo + i < k := by omega
  have h2 : lo + i - k = lo - k + i := by omega
  simp only [BitVec.getLsbD_extractLsb', BitVec.getLsbD_append, h1, if_false, h2]

theorem extract_all {k : Nat} (x : BitVec k) : x.extractLsb' 0 k = x := by
  apply BitVec.eq_of_getLsbD_eq
  intro i hi
  simp only [BitVec.getLsbD_extractLsb', hi, decide_true, Bool.true_and, Nat.zero_add]

theorem append_bit_low {m k : Nat} (x : BitVec m) (y : BitVec k) (i : Nat) (h : i < k) :
    (x ++ y).getLsbD i = y.getLsbD i := by
  simp only [BitVec.getLsbD_append, h, if_true]

theorem append_bit_high {m k : Nat} (x : BitVec m) (y : BitVec k) (i : Nat) (h : k ≤ i) :
    (x ++ y).getLsbD i = x.getLsbD (i - k) := by
  have : ¬ i < k := by omega
  simp only [BitVec.getLsbD_append, this, if_false]

@[simp] theorem regBits_toFin (r : Reg) : (regBits r).toFin = r := rfl

/-! ### Formats B and PCR -/

theorem opcodeOf_formatOp3Off9 (op : BitVec 4) (r : BitVec 3) (o : BitVec 9) :
    opcodeOf (op ++ r ++ o) = op :=
  ((extract_high _ _ _ _ (by decide)).trans ((extract_high _ _ _ _ (by decide)).trans (extract_all _)))

theorem condOfIr_formatOp3Off9 (op : BitVec 4) (r : BitVec 3) (o : BitVec 9) :
    condOfIr (op ++ r ++ o) = r :=
  ((extract_high _ _ _ _ (by decide)).trans ((extract_low _ _ _ _ (by decide)).trans (extract_all _)))

theorem regField9_formatOp3Off9 (op : BitVec 4) (r : BitVec 3) (o : BitVec 9) :
    regField (op ++ r ++ o) 9 = r.toFin :=
  congrArg BitVec.toFin ((extract_high _ _ _ _ (by decide)).trans ((extract_low _ _ _ _ (by decide)).trans (extract_all _)))

theorem off9Of_formatOp3Off9 (op : BitVec 4) (r : BitVec 3) (o : BitVec 9) :
    off9Of (op ++ r ++ o) = o :=
  ((extract_low _ _ _ _ (by decide)).trans (extract_all _))

/-! ### Format OPR -/

theorem opcodeOf_formatOpr (op : BitVec 4) (r : BitVec 3) (q : BitVec 3) (f : BitVec 1) (x : BitVec 2) (p : BitVec 3) :
    opcodeOf (op ++ r ++ q ++ f ++ x ++ p) = op :=
  ((extract_high _ _ _ _ (by decide)).trans ((extract_high _ _ _ _ (by decide)).trans ((extract_high _ _ _ _ (by decide)).trans ((extract_high _ _ _ _ (by decide)).trans ((extract_high _ _ _ _ (by decide)).trans (extract_all _))))))

theorem regField9_formatOpr (op : BitVec 4) (r : BitVec 3) (q : BitVec 3) (f : BitVec 1) (x : BitVec 2) (p : BitVec 3) :
    regField (op ++ r ++ q ++ f ++ x ++ p) 9 = r.toFin :=
  congrArg BitVec.toFin ((extract_high _ _ _ _ (by decide)).trans ((extract_high _ _ _ _ (by decide)).trans ((extract_high _ _ _ _ (by decide)).trans ((extract_high _ _ _ _ (by decide)).trans ((extract_low _ _ _ _ (by decide)).trans (extract_all _))))))

theorem regField6_formatOpr (op : BitVec 4) (r : BitVec 3) (q : BitVec 3) (f : BitVec 1) (x : BitVec 2) (p : BitVec 3) :
    regField (op ++ r ++ q ++ f ++ x ++ p) 6 = q.toFin :=
  congrArg BitVec.toFin ((extract_high _ _ _ _ (by decide)).trans ((extract_high _ _ _ _ (by decide)).trans ((extract_high _ _ _ _ (by decide)).trans ((extract_low _ _ _ _ (by decide)).trans (extract_all _)))))

theorem regField0_formatOpr (op : BitVec 4) (r : BitVec 3) (q : BitVec 3) (f : BitVec 1) (x : BitVec 2) (p : BitVec 3) :
    regField (op ++ r ++ q ++ f ++ x ++ p) 0 = p.toFin :=
  congrArg BitVec.toFin ((extract_low _ _ _ _ (by decide)).trans (extract_all _))

theorem bitField5_formatOpr (op : BitVec 4) (r : BitVec 3) (q : BitVec 3) (f : BitVec 1) (x : BitVec 2) (p : BitVec 3) :
    bitField (op ++ r ++ q ++ f ++ x ++ p) 5 = f.getLsbD 0 :=
  ((append_bit_high _ _ _ (by decide)).trans ((append_bit_high _ _ _ (by decide)).trans (append_bit_low _ _ _ (by decide))))

/-! ### Format OPI -/

theorem opcodeOf_formatOpi (op : BitVec 4) (r : BitVec 3) (q : BitVec 3) (f : BitVec 1) (i : BitVec 5) :
    opcodeOf (op ++ r ++ q ++ f ++ i) = op :=
  ((extract_high _ _ _ _ (by decide)).trans ((extract_high _ _ _ _ (by decide)).trans ((extract_high _ _ _ _ (by decide)).trans ((extract_high _ _ _ _ (by decide)).trans (extract_all _)))))

theorem regField9_formatOpi (op : BitVec 4) (r : BitVec 3) (q : BitVec 3) (f : BitVec 1) (i : BitVec 5) :
    regField (op ++ r ++ q ++ f ++ i) 9 = r.toFin :=
  congrArg BitVec.toFin ((extract_high _ _ _ _ (by decide)).trans ((extract_high _ _ _ _ (by decide)).trans ((extract_high _ _ _ _ (by decide)).trans ((extract_low _ _ _ _ (by decide)).trans (extract_all _)))))

theorem regField6_formatOpi (op : BitVec 4) (r : BitVec 3) (q : BitVec 3) (f : BitVec 1) (i : BitVec 5) :
    regField (op ++ r ++ q ++ f ++ i) 6 = q.toFin :=
  congrArg BitVec.toFin ((extract_high _ _ _ _ (by decide)).trans ((extract_high _ _ _ _ (by decide)).trans ((extract_low _ _ _ _ (by decide)).trans (extract_all _))))

theorem imm5Of_formatOpi (op : BitVec 4) (r : BitVec 3) (q : BitVec 3) (f : BitVec 1) (i : BitVec 5) :
    imm5Of (op ++ r ++ q ++ f ++ i) = i :=
  ((extract_low _ _ _ _ (by decide)).trans (extract_all _))

theorem bitField5_formatOpi (op : BitVec 4) (r : BitVec 3) (q : BitVec 3) (f : BitVec 1) (i : BitVec 5) :
    bitField (op ++ r ++ q ++ f ++ i) 5 = f.getLsbD 0 :=
  ((append_bit_high _ _ _ (by decide)).trans (append_bit_low _ _ _ (by decide)))

/-! ### Formats N, BO and J -/

theorem opcodeOf_formatTwoReg6 (op : BitVec 4) (r : BitVec 3) (q : BitVec 3) (o : BitVec 6) :
    opcodeOf (op ++ r ++ q ++ o) = op :=
  ((extract_high _ _ _ _ (by decide)).trans ((extract_high _ _ _ _ (by decide)).trans ((extract_high _ _ _ _ (by decide)).trans (extract_all _))))

theorem regField9_formatTwoReg6 (op : BitVec 4) (r : BitVec 3) (q : BitVec 3) (o : BitVec 6) :
    regField (op ++ r ++ q ++ o) 9 = r.toFin :=
  congrArg BitVec.toFin ((extract_high _ _ _ _ (by decide)).trans ((extract_high _ _ _ _ (by decide)).trans ((extract_low _ _ _ _ (by decide)).trans (extract_all _))))

theorem regField6_formatTwoReg6 (op : BitVec 4) (r : BitVec 3) (q : BitVec 3) (o : BitVec 6) :
    regField (op ++ r ++ q ++ o) 6 = q.toFin :=
  congrArg BitVec.toFin ((extract_high _ _ _ _ (by decide)).trans ((extract_low _ _ _ _ (by decide)).trans (extract_all _)))

theorem off6Of_formatTwoReg6 (op : BitVec 4) (r : BitVec 3) (q : BitVec 3) (o : BitVec 6) :
    off6Of (op ++ r ++ q ++ o) = o :=
  ((extract_low _ _ _ _ (by decide)).trans (extract_all _))

/-! ### Format JS -/

theorem opcodeOf_formatJs (op : BitVec 4) (f : BitVec 1) (o : BitVec 11) :
    opcodeOf (op ++ f ++ o) = op :=
  ((extract_high _ _ _ _ (by decide)).trans ((extract_high _ _ _ _ (by decide)).trans (extract_all _)))

theorem bitField11_formatJs (op : BitVec 4) (f : BitVec 1) (o : BitVec 11) :
    bitField (op ++ f ++ o) 11 = f.getLsbD 0 :=
  ((append_bit_high _ _ _ (by decide)).trans (append_bit_low _ _ _ (by decide)))

theorem off11Of_formatJs (op : BitVec 4) (f : BitVec 1) (o : BitVec 11) :
    off11Of (op ++ f ++ o) = o :=
  ((extract_low _ _ _ _ (by decide)).trans (extract_all _))

/-! ### Format JR -/

theorem opcodeOf_formatJr (op : BitVec 4) (f : BitVec 1) (x : BitVec 2) (q : BitVec 3) (o : BitVec 6) :
    opcodeOf (op ++ f ++ x ++ q ++ o) = op :=
  ((extract_high _ _ _ _ (by decide)).trans ((extract_high _ _ _ _ (by decide)).trans ((extract_high _ _ _ _ (by decide)).trans ((extract_high _ _ _ _ (by decide)).trans (extract_all _)))))

theorem bitField11_formatJr (op : BitVec 4) (f : BitVec 1) (x : BitVec 2) (q : BitVec 3) (o : BitVec 6) :
    bitField (op ++ f ++ x ++ q ++ o) 11 = f.getLsbD 0 :=
  ((append_bit_high _ _ _ (by decide)).trans ((append_bit_high _ _ _ (by decide)).trans ((append_bit_high _ _ _ (by decide)).trans (append_bit_low _ _ _ (by decide)))))

theorem regField6_formatJr (op : BitVec 4) (f : BitVec 1) (x : BitVec 2) (q : BitVec 3) (o : BitVec 6) :
    regField (op ++ f ++ x ++ q ++ o) 6 = q.toFin :=
  congrArg BitVec.toFin ((extract_high _ _ _ _ (by decide)).trans ((extract_low _ _ _ _ (by decide)).trans (extract_all _)))

/-! ### Format T -/

theorem opcodeOf_formatTrap (op : BitVec 4) (x : BitVec 4) (v : BitVec 8) :
    opcodeOf (op ++ x ++ v) = op :=
  ((extract_high _ _ _ _ (by decide)).trans ((extract_high _ _ _ _ (by decide)).trans (extract_all _)))

theorem vect8Of_formatTrap (op : BitVec 4) (x : BitVec 4) (v : BitVec 8) :
    vect8Of (op ++ x ++ v) = v :=
  ((extract_low _ _ _ _ (by decide)).trans (extract_all _))

/-! ### Format X -/

theorem opcodeOf_formatNoField (op : BitVec 4) (x : BitVec 12) :
    opcodeOf (op ++ x) = op :=
  ((extract_high _ _ _ _ (by decide)).trans (extract_all _))

end Sys2Proof
end

