-- ==== Sys2Proof/Laws/Flags.lean ====
section
/-! SUPPORT. What the flag derivation, the branch test and the byte selections come to. -/

namespace Sys2Proof.Machine

/-- The three cases of R16. -/
theorem condOf_cases (v : Word) :
    (v = 0x0000#16 ∧ condOf v = flagZero) ∨
      (v ≠ 0x0000#16 ∧ v.getLsbD 15 = true ∧ condOf v = flagNeg) ∨
      (v ≠ 0x0000#16 ∧ v.getLsbD 15 = false ∧ condOf v = flagPos) := by
  unfold condOf
  split
  · exact .inl ⟨‹_›, rfl⟩
  · split
    · exact .inr (.inl ⟨‹_›, ‹_›, rfl⟩)
    · exact .inr (.inr ⟨‹_›, by simp_all, rfl⟩)

/-- Bit 15 of a Word is the sign of its value. -/
theorem getLsbD_15_eq (v : Word) : v.getLsbD 15 = decide (32768 ≤ v.toNat) := by
  rw [← BitVec.msb_eq_getLsbD_last, BitVec.msb_eq_decide]

theorem condMet_iff (cond : BitVec 3) (s : State) :
    condMet cond s = true ↔ cond.setWidth 16 &&& s.cond ≠ 0x0000#16 := by
  simp [condMet]

theorem lowByte_eq (w : Word) : lowByte w = BitVec.ofNat 8 w.toNat := by
  apply BitVec.eq_of_toNat_eq
  simp [lowByte]

theorem highByte_eq (w : Word) : highByte w = BitVec.ofNat 8 (w.toNat / 256) := by
  apply BitVec.eq_of_toNat_eq
  simp [highByte, Nat.shiftRight_eq_div_pow]

end Sys2Proof.Machine
end

