-- ==== Sys2Proof/Laws/PerInstr.lean ====
section
/-! SUPPORT. Statements made of every instruction, one lemma a constructor. Family EncodedOpcode: the encoder puts the opcode number of R52 into `ir[15:12]`. -/

namespace Sys2Proof.Laws.EncodedOpcode

/-- The opcode number of an instruction in R52's table (decision D1, log 8). -/
def opcodeNumber : Instr → BitVec 4
  | .br _ _ => 0#4
  | .addReg _ _ _ => 1#4
  | .addImm _ _ _ => 1#4
  | .ld _ _ => 2#4
  | .st _ _ => 3#4
  | .jsr _ => 4#4
  | .jsrr _ => 4#4
  | .andReg _ _ _ => 5#4
  | .andImm _ _ _ => 5#4
  | .ldr _ _ _ => 6#4
  | .str _ _ _ => 7#4
  | .rti => 8#4
  | .notReg _ _ => 9#4
  | .ldi _ _ => 10#4
  | .sti _ _ => 11#4
  | .jmp _ => 12#4
  | .res => 13#4
  | .lea _ _ => 14#4
  | .trap _ => 15#4
  | .getc => 15#4
  | .out => 15#4
  | .puts => 15#4
  | .inp => 15#4
  | .putsp => 15#4
  | .halt => 15#4

/-- The canonical Word of the instruction carries the instruction's opcode number. -/
def Statement (i : Instr) : Prop := opcodeOf (encode i) = opcodeNumber i

theorem br (cond : BitVec 3) (off9 : BitVec 9) : Statement (.br cond off9) :=
  opcodeOf_formatOp3Off9 _ _ _
theorem addReg (dr : Reg) (sr1 : Reg) (sr2 : Reg) : Statement (.addReg dr sr1 sr2) :=
  opcodeOf_formatOpr _ _ _ _ _ _
theorem addImm (dr : Reg) (sr1 : Reg) (imm5 : BitVec 5) : Statement (.addImm dr sr1 imm5) :=
  opcodeOf_formatOpi _ _ _ _ _
theorem ld (dr : Reg) (off9 : BitVec 9) : Statement (.ld dr off9) :=
  opcodeOf_formatOp3Off9 _ _ _
theorem st (sr : Reg) (off9 : BitVec 9) : Statement (.st sr off9) :=
  opcodeOf_formatOp3Off9 _ _ _
theorem jsr (off11 : BitVec 11) : Statement (.jsr off11) :=
  opcodeOf_formatJs _ _ _
theorem jsrr (base : Reg) : Statement (.jsrr base) :=
  opcodeOf_formatJr _ _ _ _ _
theorem andReg (dr : Reg) (sr1 : Reg) (sr2 : Reg) : Statement (.andReg dr sr1 sr2) :=
  opcodeOf_formatOpr _ _ _ _ _ _
theorem andImm (dr : Reg) (sr1 : Reg) (imm5 : BitVec 5) : Statement (.andImm dr sr1 imm5) :=
  opcodeOf_formatOpi _ _ _ _ _
theorem ldr (dr : Reg) (base : Reg) (off6 : BitVec 6) : Statement (.ldr dr base off6) :=
  opcodeOf_formatTwoReg6 _ _ _ _
theorem str (sr : Reg) (base : Reg) (off6 : BitVec 6) : Statement (.str sr base off6) :=
  opcodeOf_formatTwoReg6 _ _ _ _
theorem rti : Statement .rti :=
  opcodeOf_formatNoField _ _
theorem notReg (dr : Reg) (sr : Reg) : Statement (.notReg dr sr) :=
  opcodeOf_formatTwoReg6 _ _ _ _
theorem ldi (dr : Reg) (off9 : BitVec 9) : Statement (.ldi dr off9) :=
  opcodeOf_formatOp3Off9 _ _ _
theorem sti (sr : Reg) (off9 : BitVec 9) : Statement (.sti sr off9) :=
  opcodeOf_formatOp3Off9 _ _ _
theorem jmp (base : Reg) : Statement (.jmp base) :=
  opcodeOf_formatTwoReg6 _ _ _ _
theorem res : Statement .res :=
  opcodeOf_formatNoField _ _
theorem lea (dr : Reg) (off9 : BitVec 9) : Statement (.lea dr off9) :=
  opcodeOf_formatOp3Off9 _ _ _
theorem trap (vect8 : BitVec 8) : Statement (.trap vect8) :=
  opcodeOf_formatTrap _ _ _
theorem getc : Statement .getc :=
  opcodeOf_formatTrap _ _ _
theorem out : Statement .out :=
  opcodeOf_formatTrap _ _ _
theorem puts : Statement .puts :=
  opcodeOf_formatTrap _ _ _
theorem inp : Statement .inp :=
  opcodeOf_formatTrap _ _ _
theorem putsp : Statement .putsp :=
  opcodeOf_formatTrap _ _ _
theorem halt : Statement .halt :=
  opcodeOf_formatTrap _ _ _

end Sys2Proof.Laws.EncodedOpcode
end

