-- ==== Sys2Proof/Tests/Slice0.lean ====
section
/-! SUPPORT. The model's own tests: ill-formed terms refused, words of the spec decoded, one step on the spec's vectors (95_test_vectors.md; the vector's name is in the test's name), and states that meet the hypotheses of the obligations. -/

namespace Sys2Proof.Tests

open Sys2Proof.Machine

set_option maxRecDepth 10000

/-! ### Helpers -/

/-- The reset state with a Word at 0x3000. -/
def at3000 (w : Nat) : State := State.reset.withFetchWord 16 w

/-- The same with the Word at another start address. -/
def atAddr (pc : Word) (w : Nat) : State := (State.reset.setPc pc).withFetchWord 16 w

/-- A check of the state after one step; false if the step has none. -/
def afterStep (s : State) (check : State → Bool) : Bool :=
  match step s with
  | .next t => check t
  | .fault _ => false
  | .refused _ => false

/-- A check of the state after two steps. -/
def afterTwoSteps (s : State) (check : State → Bool) : Bool :=
  match step s with
  | .next t => afterStep t check
  | .fault _ => false
  | .refused _ => false

/-- The bytes of a script, all there from the start. -/
def keys (bytes : List Byte) : List InputEvent := bytes.map .byte

/-! ### WellFormed: an ill-formed term is refused -/

theorem test_wf_refuses_trap_of_getc : (Instr.trap 0x20#8).wf = false := by decide
theorem test_wf_refuses_trap_of_halt : (Instr.trap 0x25#8).wf = false := by decide
theorem test_wf_admits_trap_x1F : (Instr.trap 0x1F#8).wf = true := by decide
theorem test_wf_admits_trap_x26 : (Instr.trap 0x26#8).wf = true := by decide

/-! ### Decoding: words written out from the formats of R53 and the numbers of R52, field by field -/

theorem test_decode_br : decode 0b0000_101_100000001#16 = .br 0b101#3 0x101#9 := by decide
theorem test_decode_addReg : decode 0b0001_010_011_0_00_100#16 = .addReg 2 3 4 := by decide
theorem test_decode_addReg_ignored_bits : decode 0b0001_010_011_0_11_100#16 = .addReg 2 3 4 := by decide
theorem test_decode_addImm : decode 0b0001_000_001_1_00001#16 = .addImm 0 1 1#5 := by decide
theorem test_decode_ld : decode 0b0010_010_000000101#16 = .ld 2 5#9 := by decide
theorem test_decode_st : decode 0b0011_011_111111101#16 = .st 3 0x1FD#9 := by decide
theorem test_decode_jsr : decode 0b0100_1_10000000001#16 = .jsr 0x401#11 := by decide
theorem test_decode_jsrr : decode 0b0100_0_00_010_000000#16 = .jsrr 2 := by decide
theorem test_decode_jsrr_ignored_bits : decode 0b0100_0_11_010_111111#16 = .jsrr 2 := by decide
theorem test_decode_andReg : decode 0b0101_011_001_0_00_010#16 = .andReg 3 1 2 := by decide
theorem test_decode_andImm : decode 0b0101_001_010_1_10000#16 = .andImm 1 2 0x10#5 := by decide
theorem test_decode_ldr : decode 0b0110_100_110_111110#16 = .ldr 4 6 0x3E#6 := by decide
theorem test_decode_str : decode 0b0111_000_110_000001#16 = .str 0 6 1#6 := by decide
theorem test_decode_rti : decode 0b1000_111111111111#16 = .rti := by decide
theorem test_decode_not : decode 0b1001_001_000_111111#16 = .notReg 1 0 := by decide
theorem test_decode_not_ignored_bits : decode 0b1001_001_000_000000#16 = .notReg 1 0 := by decide
theorem test_decode_ldi : decode 0b1010_000_000000001#16 = .ldi 0 1#9 := by decide
theorem test_decode_sti : decode 0b1011_001_000000010#16 = .sti 1 2#9 := by decide
theorem test_decode_jmp : decode 0b1100_000_111_000000#16 = .jmp 7 := by decide
theorem test_decode_jmp_ignored_bits : decode 0b1100_101_111_010101#16 = .jmp 7 := by decide
theorem test_decode_res : decode 0b1101_000000000000#16 = .res := by decide
theorem test_decode_lea : decode 0b1110_001_000001001#16 = .lea 1 9#9 := by decide
theorem test_decode_trap_unmapped : decode 0b1111_0000_00011111#16 = .trap 0x1F#8 := by decide
theorem test_decode_trap_after_the_services : decode 0b1111_0000_00100110#16 = .trap 0x26#8 := by decide
theorem test_decode_getc : decode 0b1111_0001_00100000#16 = .getc := by decide
theorem test_decode_out : decode 0b1111_0000_00100001#16 = .out := by decide
theorem test_decode_puts : decode 0b1111_0000_00100010#16 = .puts := by decide
theorem test_decode_in : decode 0b1111_0000_00100011#16 = .inp := by decide
theorem test_decode_putsp : decode 0b1111_0000_00100100#16 = .putsp := by decide
theorem test_decode_halt : decode 0b1111_0000_00100101#16 = .halt := by decide

/-- The Word of `ADD R0,R1,#1`, the source's one line of assembly (30_encoding.md section 9). -/
theorem test_encode_S3 : encode (.addImm 0 1 1#5) = 0x1061#16 := by decide
/-- RET (R60). -/
theorem test_encode_ret : encode (.jmp 7) = 0xC1C0#16 := by decide
theorem test_table_word_of_sixteen_bits : decodeTableWord 16 0xF025 = some .halt := by decide
theorem test_table_word_too_long : decodeTableWord 32 0xF025 = none := by decide

/-! ### One step on the spec's vectors -/

theorem test_V_BR_4_zero : afterStep (at3000 0x0605)
    (fun t => t.pc == 0x3006#16) = true := by decide
theorem test_V_BR_5_zero : afterStep (at3000 0x0805)
    (fun t => t.pc == 0x3001#16) = true := by decide
theorem test_V_ADD_5 : afterStep (at3000 0x1419 |>.setReg 0 0x0005#16 |>.setReg 1 0x0007#16)
    (fun t => t.reg 2 == 0x000C#16 && t.cond == flagPos && t.pc == 0x3001#16) = true := by decide
theorem test_V_ADD_3 : afterStep (at3000 0x1041 |>.setReg 1 0x4000#16)
    (fun t => t.reg 0 == 0x8000#16 && t.cond == flagNeg && t.pc == 0x3001#16) = true := by decide
theorem test_V_ADD_6 : afterStep (at3000 0x1061 |>.setReg 1 0xFFFF#16)
    (fun t => t.reg 0 == 0x0000#16 && t.cond == flagZero && t.pc == 0x3001#16) = true := by decide
theorem test_V_ADD_7 : afterStep (at3000 0x16F0 |>.setReg 3 0x0010#16)
    (fun t => t.reg 3 == 0x0000#16 && t.cond == flagZero) = true := by decide
theorem test_V_AND_1 : afterStep (at3000 0x5642 |>.setReg 1 0xF0F0#16 |>.setReg 2 0xFF00#16)
    (fun t => t.reg 3 == 0xF000#16 && t.cond == flagNeg && t.pc == 0x3001#16) = true := by decide
theorem test_V_AND_6 : afterStep (at3000 0x52B0 |>.setReg 2 0xABCD#16)
    (fun t => t.reg 1 == 0xABC0#16 && t.cond == flagNeg) = true := by decide
theorem test_V_AND_5 : afterStep (at3000 0x52AF |>.setReg 2 0xABCD#16)
    (fun t => t.reg 1 == 0x000D#16 && t.cond == flagPos) = true := by decide
theorem test_V_NOT_1 : afterStep (at3000 0x923F |>.setReg 0 0x00FF#16)
    (fun t => t.reg 1 == 0xFF00#16 && t.cond == flagNeg && t.pc == 0x3001#16) = true := by decide
theorem test_V_NOT_2 : afterStep (at3000 0x927F |>.setReg 1 0xFFFF#16)
    (fun t => t.reg 1 == 0x0000#16 && t.cond == flagZero) = true := by decide
theorem test_V_LD_2 : afterStep (at3000 0x21FF)
    (fun t => t.reg 0 == 0x21FF#16 && t.cond == flagPos && t.pc == 0x3001#16) = true := by decide
theorem test_V_LD_5 : afterStep (atAddr 0xFFFF#16 0x2601 |>.store 0x0001#16 0x7777#16)
    (fun t => t.reg 3 == 0x7777#16 && t.pc == 0x0000#16) = true := by decide
theorem test_V_LDI_1 : afterStep (at3000 0xA001 |>.store 0x3002#16 0x4000#16 |>.store 0x4000#16 0xBEEF#16)
    (fun t => t.reg 0 == 0xBEEF#16 && t.cond == flagNeg && t.pc == 0x3001#16) = true := by decide
theorem test_V_LDI_4 : afterStep (at3000 0xA001 |>.store 0x3002#16 0xFE00#16 |>.store 0xFE00#16 0x8000#16 |>.store 0xFE02#16 0x0061#16)
    (fun t => t.reg 0 == 0x0000#16 && t.cond == flagZero && t.cell 0xFE00#16 == 0x0000#16 && t.cell 0xFE02#16 == 0x0061#16) = true := by decide
theorem test_V_LDR_2 : afterStep (at3000 0x625F |>.setReg 1 0x4000#16 |>.store 0x401F#16 0x0042#16)
    (fun t => t.reg 1 == 0x0042#16 && t.cond == flagPos && t.pc == 0x3001#16) = true := by decide
theorem test_V_LDR_4 : afterStep (at3000 0x6280 |>.setReg 2 0xFE00#16 |>.setInput (keys [0xE9#8]))
    (fun t => t.reg 1 == 0x8000#16 && t.cond == flagNeg && t.cell 0xFE00#16 == 0x8000#16 && t.cell 0xFE02#16 == 0x00E9#16 && t.input == keys []) = true := by decide
theorem test_V_ST_1 : afterStep (at3000 0x37FD |>.setReg 3 0x1234#16)
    (fun t => t.cell 0x2FFE#16 == 0x1234#16 && t.pc == 0x3001#16 && t.cond == flagZero) = true := by decide
theorem test_V_ST_3 : afterTwoSteps ((at3000 0x3600).setReg 3 0xF025#16)
    (fun t => t.runState == .halted .haltRequested && t.pc == 0x3002#16) = true := by decide
theorem test_V_STI_1 : afterStep (at3000 0xB202 |>.setReg 1 0x00AA#16 |>.store 0x3003#16 0x5000#16)
    (fun t => t.cell 0x5000#16 == 0x00AA#16 && t.pc == 0x3001#16) = true := by decide
theorem test_V_STI_2 : afterStep (at3000 0xB202 |>.setReg 1 0x00AA#16 |>.store 0x3003#16 0xFE00#16 |>.setInput (keys [0x6B#8]))
    (fun t => t.cell 0xFE00#16 == 0x00AA#16 && t.input == keys [0x6B#8]) = true := by decide
theorem test_V_STR_2 : afterStep (at3000 0x71BF |>.setReg 0 0x7777#16)
    (fun t => t.cell 0xFFFF#16 == 0x7777#16 && t.pc == 0x3001#16) = true := by decide
theorem test_V_STR_4 : afterStep (at3000 0x7D80 |>.setReg 6 0x4000#16)
    (fun t => t.cell 0x4000#16 == 0x4000#16) = true := by decide
theorem test_V_JMP_2 : afterStep (at3000 0xC1C0 |>.setReg 7 0x3456#16 |>.setCond flagNeg)
    (fun t => t.pc == 0x3456#16 && t.cond == flagNeg) = true := by decide
theorem test_V_JMP_3 : afterStep (at3000 0xCEBF |>.setReg 2 0x4000#16)
    (fun t => t.pc == 0x4000#16) = true := by decide
theorem test_V_JSR_2 : afterStep (at3000 0x4C00)
    (fun t => t.reg 7 == 0x3001#16 && t.pc == 0x2C01#16) = true := by decide
theorem test_V_JSR_5 : afterStep (atAddr 0x9000#16 0x4800 |>.setCond flagPos)
    (fun t => t.reg 7 == 0x9001#16 && t.pc == 0x9001#16 && t.cond == flagPos) = true := by decide
theorem test_V_JSRR_1 : afterStep (at3000 0x4080 |>.setReg 2 0x5000#16)
    (fun t => t.reg 7 == 0x3001#16 && t.pc == 0x5000#16) = true := by decide
theorem test_V_JSRR_2 : afterStep (at3000 0x41C0 |>.setReg 7 0x5000#16)
    (fun t => t.reg 7 == 0x3001#16 && t.pc == 0x3001#16) = true := by decide
theorem test_V_LEA_2 : afterStep (atAddr 0x8000#16 0xE002)
    (fun t => t.reg 0 == 0x8003#16 && t.cond == flagNeg && t.pc == 0x8001#16) = true := by decide
theorem test_V_LEA_3 : afterStep (atAddr 0x0000#16 0xE1FF |>.setReg 0 0x0005#16)
    (fun t => t.reg 0 == 0x0000#16 && t.cond == flagZero && t.pc == 0x0001#16) = true := by decide
theorem test_V_GETC_3 : afterStep (at3000 0xF020 |>.setInput (keys [0xFF#8]))
    (fun t => t.reg 0 == 0x00FF#16 && t.cond == flagPos && t.reg 7 == 0x3001#16 && t.output == [] && t.input == keys []) = true := by decide
theorem test_V_GETC_4 : step (at3000 0xF020) = .fault (.awaitingInput
    (((at3000 0xF020).setPc 0x3001#16).setReg 7 0x3001#16)) := by rfl
theorem test_V_OUT_2 : afterStep (at3000 0xF021 |>.setReg 0 0x1241#16)
    (fun t => t.output == [0x41#8] && t.reg 7 == 0x3001#16 && t.reg 0 == 0x1241#16 && t.cond == flagZero) = true := by decide
theorem test_V_OUT_3 : afterStep (at3000 0xF021)
    (fun t => t.output == [0x00#8]) = true := by decide
theorem test_V_PUTS_4 : afterStep (at3000 0xF022 |>.setReg 0 0xFFFF#16 |>.store 0xFFFF#16 0x0048#16 |>.store 0x0000#16 0x0049#16)
    (fun t => t.output == [0x48#8, 0x49#8] && t.reg 0 == 0xFFFF#16 && t.pc == 0x3001#16) = true := by decide
theorem test_V_PUTS_5 : afterStep (at3000 0xF022 |>.setReg 0 0xFDFF#16 |>.store 0xFDFF#16 0x0058#16 |>.store 0xFE01#16 0x0059#16 |>.setInput (keys [0x71#8]))
    (fun t => t.output == [0x58#8, 0x00#8, 0x59#8, 0x71#8] && t.cell 0xFE00#16 == 0x8000#16 && t.cell 0xFE02#16 == 0x0071#16 && t.input == keys []) = true := by decide
theorem test_V_IN_1 : afterStep (at3000 0xF023 |>.setInput (keys [0x37#8]))
    (fun t => t.output == defaultInPrompt ++ [0x37#8] && t.reg 0 == 0x0037#16 && t.cond == flagPos && t.reg 7 == 0x3001#16) = true := by decide
theorem test_V_IOERR_6 : afterStep (at3000 0xF023 |>.setReg 0 0x0003#16 |>.setInput (keys [0x37#8]) |>.setOutputFails (some 19))
    (fun t => t.output == defaultInPrompt && t.reg 0 == 0x0003#16 && t.input == keys [] && t.reg 7 == 0x3001#16 && t.runState == .halted .hostIOError) = true := by decide
theorem test_V_PUTSP_2 : afterStep (at3000 0xF024 |>.setReg 0 0x3010#16 |>.store 0x3010#16 0x0041#16)
    (fun t => t.output == [0x41#8]) = true := by decide
theorem test_V_PUTSP_3 : afterStep (at3000 0xF024 |>.setReg 0 0x3010#16 |>.store 0x3010#16 0x4100#16 |>.store 0x3011#16 0x0042#16 |>.store 0x3012#16 0x4443#16)
    (fun t => t.output == [0x00#8, 0x41#8, 0x42#8, 0x43#8, 0x44#8]) = true := by decide
theorem test_V_HALT_1 : afterStep (atAddr 0x3005#16 0xF025)
    (fun t => t.output == [0x48#8, 0x41#8, 0x4C#8, 0x54#8, 0x0A#8] && t.reg 7 == 0x3006#16 && t.pc == 0x3006#16 && t.runState == .halted .haltRequested) = true := by decide
theorem test_V_IOERR_5 : afterStep (at3000 0xF025 |>.setOutputFails (some 0))
    (fun t => t.output == [] && t.reg 7 == 0x3001#16 && t.pc == 0x3001#16 && t.runState == .halted .hostIOError) = true := by decide
theorem test_V_TRAP_2 : afterStep (at3000 0xF01F)
    (fun t => t.reg 7 == 0x3001#16 && t.pc == 0x3001#16 && t.runState == .halted .invalidTrapVector && t.output == []) = true := by decide
theorem test_V_TRAP_3 : afterStep (at3000 0xF026 |>.setReg 7 0x1111#16)
    (fun t => t.reg 7 == 0x3001#16 && t.runState == .halted .invalidTrapVector) = true := by decide
theorem test_V_RTI_2 : afterStep (at3000 0x8FFF |>.setReg 1 0x0001#16 |>.setCond flagPos)
    (fun t => t.pc == 0x3001#16 && t.reg 1 == 0x0001#16 && t.reg 7 == 0x0000#16 && t.cond == flagPos && t.runState == .halted .invalidOpcode) = true := by decide
theorem test_V_RES_1 : afterStep (at3000 0xD000)
    (fun t => t.pc == 0x3001#16 && t.runState == .halted .invalidOpcode) = true := by decide
theorem test_V_FETCH_1 : afterStep (atAddr 0xFE00#16 0x1234 |>.setInput (keys [0x78#8]))
    (fun t => t.cell 0xFE00#16 == 0x8000#16 && t.cell 0xFE02#16 == 0x0078#16 && t.pc == 0xFE01#16 && t.runState == .halted .invalidOpcode) = true := by decide
theorem test_V_FETCH_3 : afterStep (atAddr 0xFFFF#16 0x1021)
    (fun t => t.reg 0 == 0x0001#16 && t.pc == 0x0000#16) = true := by decide
theorem test_V_CANCEL_1 : afterStep (at3000 0x1021 |>.setCancel (some 0))
    (fun t => t.pc == 0x3000#16 && t.reg 0 == 0x0000#16 && t.runState == .halted .cancelled) = true := by decide
theorem test_V_IOERR_4 : afterStep (atAddr 0xFE00#16 0x1021 |>.setInput [.fails])
    (fun t => t.pc == 0xFE00#16 && t.cell 0xFE00#16 == 0x1021#16 && t.runState == .halted .hostIOError) = true := by decide

/-- The spec's status numbers (R160). -/
theorem test_status_of_each_run_state :
    [RunState.running, .halted .haltRequested, .halted .invalidOpcode, .halted .invalidTrapVector,
      .halted .hostIOError, .halted .cancelled].map RunState.status = [0, 1, 2, 3, 4, 5] := by decide

theorem test_V_POP_2 : populate 0xFFFF#16 [0x0001#16, 0x0002#16] [] =
    [(0x0000, 0x0002#16), (0xFFFF, 0x0001#16)] := by decide

theorem test_writing_zero_unlists_the_cell : Memory.write [(5, 0x0007#16)] 5 0x0000#16 = [] := by
  decide

/-- V-RESET-1. -/
theorem test_V_RESET_1 : State.reset.pc = 0x3000#16 ∧ State.reset.cond = 0x0002#16 ∧
    State.reset.mem = [] ∧ State.reset.runState = .running ∧
    State.reset.regs = Vector.replicate 8 0x0000#16 := by decide

/-! ### States that meet the obligations' hypotheses, clause by clause -/

/-- The reset state about to read KBSR by `LDR R1,R2,#0`, with a device script. -/
def kbsrReader (script : List InputEvent) : State :=
  (State.reset.setReg 2 kbsrAddr).setInput script

/-- The reset state one word before KBSR, so that `off9 = 0` after the fetch addresses KBSR. -/
def pcAtKbsr (script : List InputEvent) : State := (State.reset.setPc kbsrAddr).setInput script

/-- Whether an outcome is a next state that passes a check. -/
def nextIs (o : Host.Outcome State Fault Refusal) (check : State → Bool) : Bool :=
  match o with
  | .next t => check t
  | .fault _ => false
  | .refused _ => false

theorem exists_of_nextIs {o : Host.Outcome State Fault Refusal} {check : State → Bool}
    (h : nextIs o check = true) : ∃ t, o = .next t ∧ check t = true := by
  cases o with
  | next t => exact ⟨t, rfl, h⟩
  | fault f => cases h
  | refused f => cases h

/-- BootLeavesTheResetState, LoaderWritesConsecutiveAddresses: two Words across the top of memory,
and an address that is neither's. -/
theorem witness_populate :
    ([0x0001#16, 0x0002#16] : List Word).length ≤ 65536 ∧
      ([0x0001#16, 0x0002#16] : List Word)[1]? = some 0x0002#16 ∧
      ∀ i, i < 2 → (0x0001#16 : Word) ≠ 0xFFFF#16 + BitVec.ofNat 16 i := by
  refine ⟨by decide, by decide, fun i hi => ?_⟩
  obtain rfl | rfl : i = 0 ∨ i = 1 := by omega
  all_goals decide

/-- LoaderWritesConsecutiveAddresses: the longest sequence accepted and the shortest refused. -/
theorem witness_loader_lengths :
    (List.replicate 65536 (0x0000#16 : Word)).length ≤ 65536 ∧
      65536 < (List.replicate 65537 (0x0000#16 : Word)).length := by
  simp only [List.length_replicate]
  omega

/-- InvariantHoldsAtBoot. -/
theorem witness_boot : boot defaultConfig [] = .ok State.reset := rfl

theorem reset_inv : State.reset.inv := by decide

/-- EveryStepKeepsTheInvariant, OutputOnlyGrowsAndInputIsOnlyConsumed: a step that stores. -/
theorem witness_step_with_inv :
    ((at3000 0x37FD).setReg 3 0x1234#16).inv ∧
      ∃ t, step ((at3000 0x37FD).setReg 3 0x1234#16) = .next t ∧
        (t.cell 0x2FFE#16 == 0x1234#16) = true :=
  ⟨by decide, exists_of_nextIs (by decide)⟩

/-- CanonicalMemoriesThatReadAlikeAreEqual: the same cells written in two orders. -/
theorem witness_canonical_memories :
    (Memory.write (Memory.write [] 5 1#16) 0xFFFF 2#16).wf ∧
      (Memory.write (Memory.write [] 0xFFFF 2#16) 5 1#16).wf ∧
      ∀ a : Word, (Memory.write (Memory.write [] 5 1#16) 0xFFFF 2#16).read a.toNat =
        (Memory.write (Memory.write [] 0xFFFF 2#16) 5 1#16).read a.toNat := by
  have h : Memory.write (Memory.write [] 5 1#16) 0xFFFF 2#16 =
      Memory.write (Memory.write [] 0xFFFF 2#16) 5 1#16 := by decide
  refine ⟨by decide, by decide, fun a => by rw [h]⟩

/-- StepRunsTheDecodedInstruction: with a request two boundaries away, and beside KBSR. -/
theorem witness_step_runs :
    let s := (State.reset.setPc 0xFE01#16).setCancel (some 2)
    s.runState = .running ∧ s.cancelAfter ≠ some 0 ∧ s.pc ≠ kbsrAddr := by decide

/-- FetchFromKbsrPollsTheKeyboard: the four answers, and the endless one, with no request and with
one that is pending. -/
theorem witness_fetch_from_kbsr :
    let s := fun script => (pcAtKbsr script).setCancel (some 1)
    ((pcAtKbsr []).cancelAfter ≠ some 0 ∧ (pcAtKbsr []).pc = kbsrAddr) ∧
      ((s []).runState = .running ∧ (s []).cancelAfter ≠ some 0 ∧ (s []).pc = kbsrAddr) ∧
      readyByte (s (keys [0x78#8])) = some (0x78#8, []) ∧
      readyByte (s [.endless 0x00#8]) = some (0x00#8, [.endless 0x00#8]) ∧
      noKeyReady (s []) = true ∧ noKeyReady (s [.notYet]) = true ∧
      (s [.fails]).input = .fails :: [] ∧ (s [.readFails]).input = .readFails :: [] := by decide

/-- CancellationIsTakenBeforeTheFetch. -/
theorem witness_cancellation :
    let s := State.reset.setCancel (some 0)
    s.runState = .running ∧ s.cancelAfter = some 0 := by decide

/-- HaltedMachineTakesNoStep. -/
theorem witness_halted : (State.reset.raise .cancelled).runState = .halted .cancelled := by decide

/-- StoredWordIsFetchedByTheNextStep: V-ST-3, with a request two boundaries away. -/
theorem witness_stored_word :
    let s := (at3000 0x3600).setCancel (some 2)
    s.runState = .running ∧ s.cancelAfter ≠ some 0 ∧ s.cancelAfter ≠ some 1 ∧ s.pc ≠ kbsrAddr ∧
      s.pc + 1#16 ≠ kbsrAddr ∧ decode (s.cell s.pc) = .st 3 0#9 := by decide

/-- EachHaltKindHasItsCause: a step into each of the five kinds. -/
theorem witness_each_halt_kind :
    (∃ t, step (State.reset.setCancel (some 0)) = .next t ∧
        (t.runState == .halted .cancelled) = true) ∧
      (∃ t, step (at3000 0xF025) = .next t ∧ (t.runState == .halted .haltRequested) = true) ∧
      (∃ t, step (at3000 0xD000) = .next t ∧ (t.runState == .halted .invalidOpcode) = true) ∧
      (∃ t, step (at3000 0xF0FF) = .next t ∧ (t.runState == .halted .invalidTrapVector) = true) ∧
      (∃ t, step ((at3000 0xF021).setOutputFails (some 0)) = .next t ∧
        (t.runState == .halted .hostIOError) = true) :=
  ⟨exists_of_nextIs (by decide), exists_of_nextIs (by decide), exists_of_nextIs (by decide),
    exists_of_nextIs (by decide), exists_of_nextIs (by decide)⟩

/-- EachHaltKindHasItsCause, its last kind: a fetch, a load, GETC's read and a string read that
fail. -/
theorem witness_host_io_errors :
    (∃ t, step (pcAtKbsr [.readFails]) = .next t ∧ (t.runState == .halted .hostIOError) = true) ∧
      (∃ t, step (((at3000 0x6280).setReg 2 kbsrAddr).setInput [.fails]) = .next t ∧
        (t.runState == .halted .hostIOError) = true) ∧
      (∃ t, step ((at3000 0xF020).setInput [.notYet, .fails]) = .next t ∧
        (t.runState == .halted .hostIOError) = true) ∧
      (∃ t, step (((at3000 0xF022).setReg 0 kbsrAddr).setInput [.fails]) = .next t ∧
        (t.runState == .halted .hostIOError) = true) :=
  ⟨exists_of_nextIs (by decide), exists_of_nextIs (by decide), exists_of_nextIs (by decide),
    exists_of_nextIs (by decide)⟩

/-- ZeroedMemoryRunsOnSafely: with the device asked once, from KBSR on, and a request that is seen
only after the two steps. -/
theorem witness_zeroed_memory :
    let s := (pcAtKbsr [.notYet]).setCancel (some 2)
    s.runState = .running ∧ s.mem = [] ∧ s.cancelAfter = some 2 ∧ 2 ≤ 2 ∧
      ∀ e ∈ s.input, e = .notYet := by decide

/-- DecodeOfEncodeIsTheInstruction; DecodeReadsEachFormatsFields: the vectors beside the mapped
ones. -/
theorem witness_well_formed :
    (Instr.trap 0x26#8).wf = true ∧ 0x1F#8 ∉ mappedVectors ∧ 0x26#8 ∉ mappedVectors ∧
      0x00#8 ∉ mappedVectors ∧ 0xFF#8 ∉ mappedVectors := by decide

/-- DecodedWordMatchesItsTableRowAlone: a Word two rows match. -/
theorem witness_two_rows :
    (rowOf .halt).matches 0xF025#16 = true ∧ (rowOf (.trap 0x00#8)).matches 0xF025#16 = true := by
  decide

/-- SignExtensionWidensTwosComplement: both sides of the sign bit, V-SEXT-1 and V-SEXT-2, V-SEXT-10
and V-SEXT-11. -/
theorem witness_sext :
    5 ∈ [5, 6, 9, 11] ∧ 11 ∈ [5, 6, 9, 11] ∧
      (0x0F#5).toNat < 2 ^ (5 - 1) ∧ 2 ^ (5 - 1) ≤ (0x10#5).toNat ∧
      (0x3FF#11).toNat < 2 ^ (11 - 1) ∧ 2 ^ (11 - 1) ≤ (0x400#11).toNat := by decide

/-- What V-SEXT-1, 2, 5, 8 and 11 give. -/
theorem test_V_SEXT : sext 0x0F#5 = 0x000F#16 ∧ sext 0x10#5 = 0xFFF0#16 ∧ sext 0x20#6 = 0xFFE0#16 ∧
    sext 0x100#9 = 0xFF00#16 ∧ sext 0x400#11 = 0xFC00#16 := by decide

/-- FlagDescribes (SetCCDescribesTheRegister and every definition): V-CC-1 to V-CC-5, each side of
each boundary. -/
theorem witness_flags :
    (0x0000#16).toNat = 0 ∧ (0 < (0x0001#16).toNat ∧ (0x0001#16).toNat < 32768) ∧
      (0 < (0x7FFF#16).toNat ∧ (0x7FFF#16).toNat < 32768) ∧ 32768 ≤ (0x8000#16).toNat ∧
      32768 ≤ (0xFFFF#16).toNat := by decide

/-- V-CC-1 to V-CC-5. -/
theorem test_V_CC : condOf 0x0000#16 = 0x0002#16 ∧ condOf 0x0001#16 = 0x0001#16 ∧
    condOf 0x7FFF#16 = 0x0001#16 ∧ condOf 0x8000#16 = 0x0004#16 ∧ condOf 0xFFFF#16 = 0x0004#16 := by
  decide

/-- RegisterHoldsTheWordLastWritten. -/
theorem witness_other_register : (0 : Reg) ≠ 7 := by decide

/-- MemoryReadPollsTheKeyboardAtKbsrOnly, LoadsOfKbsrDefineTheFreshStatus: every answer of the
device, at the address of each load form. -/
theorem witness_loads_of_kbsr :
    (0xFE01#16 : Word) ≠ kbsrAddr ∧ (0xFDFF#16 : Word) ≠ kbsrAddr ∧
      readyByte (kbsrReader (keys [0xE9#8])) = some (0xE9#8, []) ∧
      readyByte (kbsrReader [.endless 0x61#8]) = some (0x61#8, [.endless 0x61#8]) ∧
      noKeyReady (kbsrReader []) = true ∧ noKeyReady (kbsrReader [.notYet]) = true ∧
      (kbsrReader [.fails]).input = .fails :: [] ∧
      (kbsrReader [.readFails]).input = .readFails :: [] ∧
      baseOff6 (kbsrReader []) 2 0#6 = kbsrAddr ∧ pcRel9 (pcAtKbsr []) 0#9 = kbsrAddr ∧
      (pcRel9 ((pcAtKbsr []).store 0xFE01#16 kbsrAddr) 1#9 ≠ kbsrAddr ∧
        ((pcAtKbsr []).store 0xFE01#16 kbsrAddr).cell
          (pcRel9 ((pcAtKbsr []).store 0xFE01#16 kbsrAddr) 1#9) = kbsrAddr) := by decide

/-- LoadsDefineTheStoredWord, StiStoresThroughItsPointer: the cells on both sides of KBSR. -/
theorem witness_plain_loads :
    pcRel9 (pcAtKbsr []) 1#9 ≠ kbsrAddr ∧ pcRel9 (pcAtKbsr []) 0x1FF#9 ≠ kbsrAddr ∧
      baseOff6 (kbsrReader []) 2 2#6 ≠ kbsrAddr ∧
      (pcAtKbsr []).cell (pcRel9 (pcAtKbsr []) 1#9) ≠ kbsrAddr := by decide

/-- LdAndLdiDefineWhatTheirReadsReturn: a read of KBSR that ends, one that raises, and a pointer to
KBSR whose data read raises. -/
theorem witness_reads_that_end_and_raise :
    (∃ v u, memRead (pcRel9 (pcAtKbsr []) 0#9) (pcAtKbsr []) = .done v u ∧
        ∃ v2 u2, memRead v u = .done v2 u2) ∧
      (∃ u, memRead (pcRel9 (pcAtKbsr [.fails]) 0#9) (pcAtKbsr [.fails]) = .raised u) ∧
      (∃ v u, memRead (pcRel9 ((pcAtKbsr [.fails]).store 0xFE01#16 kbsrAddr) 1#9)
          ((pcAtKbsr [.fails]).store 0xFE01#16 kbsrAddr) = .done v u ∧
        ∃ u2, memRead v u = .raised u2) :=
  ⟨⟨_, _, rfl, _, _, rfl⟩, ⟨_, rfl⟩, ⟨_, _, rfl, _, rfl⟩⟩

/-- ReservedOpcodesHaltAndChangeNothingElse: the ends of both ranges. -/
theorem witness_reserved_words :
    0x8000 ≤ (0x8000#16).toNat ∧ (0x8FFF#16).toNat ≤ 0x8FFF ∧ 0xD000 ≤ (0xD000#16).toNat ∧
      (0xDFFF#16).toNat ≤ 0xDFFF := by decide

/-- PointerReadFromKbsrPolls: the address and every answer. -/
theorem witness_pointer_read :
    let s := pcAtKbsr
    pcRel9 (s []) 0#9 = kbsrAddr ∧ readyByte (s (keys [0x61#8])) = some (0x61#8, []) ∧
      noKeyReady (s []) = true ∧ (s [.fails]).input = .fails :: [] ∧
      (s [.readFails]).input = .readFails :: [] := by decide

/-- BranchAddsTheOffsetWhenAFlagIsMet, its second clause: each flag. -/
theorem witness_legal_cond :
    (State.reset.setCond flagPos).condLegal ∧ (State.reset.setCond flagZero).condLegal ∧
      (State.reset.setCond flagNeg).condLegal := by decide

/-- JsrrLinksThenReadsTheBase: a base that is R7 and one that is not. -/
theorem witness_jsrr_base : (6 : Reg) ≠ linkReg ∧ (7 : Reg) = linkReg := by decide

/-- UnmappedVectorHaltsAfterTheLinkWrite: the ends of both ranges. -/
theorem witness_unmapped_vectors :
    (0x00#8).toNat < 0x20 ∧ (0x1F#8).toNat < 0x20 ∧ 0x25 < (0x26#8).toNat ∧
      0x25 < (0xFF#8).toNat := by decide

/-- The reset state with a device script and a count of bytes the output device still accepts. -/
def withDevices (script : List InputEvent) (accepts : Nat) : State :=
  (State.reset.setInput script).setOutputFails (some accepts)

/-- GetcReturnsTheNextByte, InPromptsReadsEchoesAndReturns: no wait and a wait, a byte and an endless
supply, an output device that accepts just the prompt's 19 bytes and the echo. -/
theorem witness_byte_comes :
    ((withDevices (keys [0x37#8]) 20).input = afterWaits 0 (.byte 0x37#8 :: []) ∧
        acceptsOutput (withDevices (keys [0x37#8]) 20)
          (State.reset.config.inPrompt.length + 1) = true) ∧
      (withDevices [.notYet, .endless 0x00#8] 20).input = afterWaits 1 (.endless 0x00#8 :: []) ∧
        acceptsOutput (withDevices [.notYet, .endless 0x00#8] 20)
          (State.reset.config.inPrompt.length + 1) = true := by decide

/-- GetcAndInWaitWithoutEndWhenNoByteComes: no answer at all, and one moment without a byte; an
output device that accepts just the prompt. -/
theorem witness_no_byte_comes :
    (withDevices [] 19).input = afterWaits 0 [] ∧ (withDevices [.notYet] 19).input = afterWaits 1 [] ∧
      acceptsOutput (withDevices [.notYet] 19) State.reset.config.inPrompt.length = true := by decide

/-- FailingReadEndsGetcAndIn: both failures, at once and after a wait. -/
theorem witness_failing_reads :
    (withDevices [.fails] 19).input = afterWaits 0 (.fails :: []) ∧
      (withDevices [.notYet, .readFails] 19).input = afterWaits 1 (.readFails :: []) ∧
      acceptsOutput (withDevices [.fails] 19) State.reset.config.inPrompt.length = true ∧
      acceptsOutput (withDevices [.notYet, .readFails] 19) State.reset.config.inPrompt.length = true
      := by decide

/-- OutWritesTheLowByte, HaltWritesTheNoticeAndStops: a device that accepts just so many bytes. -/
theorem witness_outputs_accepted :
    acceptsOutput (State.reset.setOutputFails (some 1)) 1 = true ∧
      acceptsOutput (State.reset.setOutputFails (some 5)) State.reset.config.haltNotice.length = true
      := by decide

/-- V-PUTS-4's string: it ends just before the Word at 1, across the top of memory. -/
def wrappedString : State :=
  ((State.reset.setReg 0 0xFFFF#16).store 0xFFFF#16 0x0048#16).store 0x0000#16 0x0149#16

/-- PutsWritesTheStringBeforeItsTerminator, PutspWritesTheBytesOfEachWord: the empty string under a
device that accepts nothing, and one that wraps, under a device that accepts just its bytes. -/
theorem witness_strings :
    (isString (withDevices [] 0) ((withDevices [] 0).reg serviceReg) 0 = true ∧
        acceptsOutput (withDevices [] 0) 0 = true) ∧
      (isString (wrappedString.setOutputFails (some 2)) (wrappedString.reg serviceReg) 2 = true ∧
        acceptsOutput (wrappedString.setOutputFails (some 2)) 2 = true) ∧
      (isString (wrappedString.setOutputFails (some 3)) (wrappedString.reg serviceReg) 2 = true ∧
        [0x48#8, 0x49#8, 0x01#8] =
          putspText (stringWords (wrappedString.setOutputFails (some 3))
            (wrappedString.reg serviceReg) 2) ∧
        acceptsOutput (wrappedString.setOutputFails (some 3)) [0x48#8, 0x49#8, 0x01#8].length = true)
      := by decide

/-- A string whose second Word is KBSR's fresh status and whose third cell is 0x0000 (V-PUTS-5's
shape). -/
def stringAcrossKbsr (script : List InputEvent) : State :=
  ((State.reset.setReg 0 0xFDFF#16).store 0xFDFF#16 0x0148#16).setInput script

/-- StringServicesReadThroughTheKeyboardCells: the Words read are 0x0148 and, with a key, 0x8000. The
terminator, under a device that accepts just PUTSP's four bytes; with no key KBSR is the
terminator. -/
theorem witness_string_ends :
    (∃ u v, readsWords [0x0148#16, 0x8000#16] ((stringAcrossKbsr (keys [0x61#8])).setOutputFails
          (some 4)) 0xFDFF#16 u ∧
        memRead (0xFDFF#16 + 2#16) u = .done 0x0000#16 v ∧
        acceptsOutput ((stringAcrossKbsr (keys [0x61#8])).setOutputFails (some 4))
          (putspText [0x0148#16, 0x8000#16]).length = true) ∧
      (∃ u v, readsWords [0x0148#16] (stringAcrossKbsr []) 0xFDFF#16 u ∧
        memRead (0xFDFF#16 + 1#16) u = .done 0x0000#16 v) :=
  ⟨⟨_, _, ⟨by decide, _, rfl, by decide, _, rfl, rfl⟩, rfl, by decide⟩,
    ⟨_, _, ⟨by decide, _, rfl, rfl⟩, rfl⟩⟩

/-- StringServicesReadThroughTheKeyboardCells: the read of KBSR fails; the output fails between the
low and the high byte of the last Word, and just before its low byte. -/
theorem witness_string_fails :
    (∃ u v, readsWords [0x0148#16] (stringAcrossKbsr [.readFails]) 0xFDFF#16 u ∧
        memRead (0xFDFF#16 + 1#16) u = .raised v) ∧
      (∃ s u, s.outputFailsAfter = some 2 ∧
        readsWords [0x0148#16, 0x8000#16] s (s.reg serviceReg) u ∧
        (putspText ([0x0148#16, 0x8000#16] : List Word).dropLast).length ≤ 2 ∧
        2 < (putspText [0x0148#16, 0x8000#16]).length) ∧
      (∃ s u, s.outputFailsAfter = some 3 ∧
        readsWords [0x0148#16, 0x8000#16] s (s.reg serviceReg) u ∧
        (putspText ([0x0148#16, 0x8000#16] : List Word).dropLast).length ≤ 3 ∧
        3 < (putspText [0x0148#16, 0x8000#16]).length) :=
  ⟨⟨_, _, ⟨by decide, _, rfl, rfl⟩, rfl⟩,
    ⟨(stringAcrossKbsr (keys [0x61#8])).setOutputFails (some 2), _, rfl,
      ⟨by decide, _, rfl, by decide, _, rfl, rfl⟩, by decide, by decide⟩,
    ⟨(stringAcrossKbsr (keys [0x61#8])).setOutputFails (some 3), _, rfl,
      ⟨by decide, _, rfl, by decide, _, rfl, rfl⟩, by decide, by decide⟩⟩

/-- StringServicesCompleteUnlessInputIsEndless: no endless supply; an endless one with an output
device that fails. -/
theorem witness_no_endless_input :
    noEndlessInput (State.reset.setInput [.byte 0x00#8, .notYet, .fails, .readFails]) = true ∧
      (withDevices [.endless 0x61#8] 65536).outputFailsAfter ≠ none := by decide

/-- Memory in which every cell from `k` up to `k + n` holds 1. -/
theorem read_ones (n k a : Nat) (h1 : k ≤ a) (h2 : a < k + n) :
    Memory.read ((List.range' k n).map fun b => (b, 0x0001#16)) a = 0x0001#16 := by
  induction n generalizing k with
  | zero => omega
  | succ n ih =>
    rw [List.range'_succ, List.map_cons]
    unfold Memory.read
    split
    · rfl
    · exact ih (k + 1) (by omega) (by omega)

/-- StringWithoutTerminatorNeverCompletes: no cell is 0x0000, and the device offers 0x01 for ever. -/
theorem witness_no_terminator :
    ∃ s : State, (0x01#8 : Byte) ≠ 0x00#8 ∧ s.input = .endless 0x01#8 :: [] ∧
      s.outputFailsAfter = none ∧ ∀ a, a ≠ kbsrAddr → s.cell a ≠ 0x0000#16 := by
  refine ⟨{ State.reset with
    input := [.endless 0x01#8]
    mem := (List.range' 0 65536).map fun b => (b, 0x0001#16) }, by decide, rfl, rfl,
    fun a _ => ?_⟩
  have h : Memory.read ((List.range' 0 65536).map fun b => (b, 0x0001#16)) a.toNat = 0x0001#16 :=
    read_ones 65536 0 a.toNat (Nat.zero_le _) (by have := a.isLt; omega)
  show Memory.read _ a.toNat ≠ _
  rw [h]
  decide

/-- FailingOutputKeepsWhatWasWritten: each clause at the last byte it allows; PUTSP between the low
and the high byte. -/
theorem witness_failing_output :
    (withDevices [] 0).outputFailsAfter = some 0 ∧
      ((withDevices [] 4).outputFailsAfter = some 4 ∧ 4 < State.reset.config.haltNotice.length) ∧
      ((withDevices [] 18).outputFailsAfter = some 18 ∧ 18 < State.reset.config.inPrompt.length) ∧
      ((withDevices (keys [0x37#8]) 19).outputFailsAfter = some 19 ∧
        19 = State.reset.config.inPrompt.length ∧
        (withDevices (keys [0x37#8]) 19).input = afterWaits 0 (.byte 0x37#8 :: [])) ∧
      ((withDevices [.notYet, .endless 0x37#8] 19).outputFailsAfter = some 19 ∧
        (withDevices [.notYet, .endless 0x37#8] 19).input =
          afterWaits 1 (.endless 0x37#8 :: [])) ∧
      (plainWords wrappedString (wrappedString.reg serviceReg) 2 = true ∧
        1 < (putsText (stringWords wrappedString (wrappedString.reg serviceReg) 2)).length) ∧
      2 < (putspText (stringWords wrappedString (wrappedString.reg serviceReg) 2)).length := by
  decide

/-- CondIsWrittenByDefinersOnly, InstructionsWriteOnlyTheirRegisters: a store, a definition, and a load
whose device fails. -/
theorem witness_definitions :
    (definesReg (.st 0 0#9) = none ∧ ∃ t, exec (.st 0 0#9) State.reset = .next t) ∧
      (definesReg (.notReg 1 0) = some 1 ∧ ∃ t, exec (.notReg 1 0) State.reset = .next t) ∧
      (definesReg (.ldr 1 2 0#6) = some 1 ∧
        ∃ t, exec (.ldr 1 2 0#6) (kbsrReader [.fails]) = .next t) :=
  ⟨⟨rfl, _, rfl⟩, ⟨rfl, _, rfl⟩, ⟨rfl, _, rfl⟩⟩

/-- OnlyStoresAndKbsrReadsChangeMemory, its second clause: an instruction that reads no data, a load,
a string that ends and one whose output fails, each beside KBSR. -/
theorem witness_reads_avoid_kbsr :
    (readsAvoidKbsr .out State.reset ∧ isStore .out = false ∧
        ∃ t, exec .out State.reset = .next t) ∧
      (readsAvoidKbsr (.ld 1 1#9) (pcAtKbsr []) ∧ isStore (.ld 1 1#9) = false ∧
        ∃ t, exec (.ld 1 1#9) (pcAtKbsr []) = .next t) ∧
      readsAvoidKbsr .puts wrappedString ∧
      readsAvoidKbsr .putsp ((stringAcrossKbsr []).setOutputFails (some 1)) :=
  ⟨⟨trivial, rfl, _, rfl⟩, ⟨(by decide : pcRel9 (pcAtKbsr []) 1#9 ≠ kbsrAddr), rfl, _, rfl⟩,
    ⟨2, .inl (by decide)⟩, ⟨1, .inr (by decide)⟩⟩

/-- OnlyBranchReadsCond. -/
theorem witness_no_branch : ∀ cond off9, Instr.getc ≠ .br cond off9 := by
  intro cond off9
  simp

/-- OnlyBranchesAndJumpsWritePc, OnlyStoresAndKbsrReadsChangeMemory, OnlyTrapServicesWriteOutput: a
load of KBSR is no store, no jump and no service, and has a next state. -/
theorem witness_load_is_neither :
    writesPc (.ldr 1 2 0#6) = false ∧ isStore (.ldr 1 2 0#6) = false ∧
      (∀ v, Instr.ldr 1 2 0#6 ≠ .trap v) ∧ Instr.ldr 1 2 0#6 ≠ .out ∧ Instr.ldr 1 2 0#6 ≠ .puts ∧
      Instr.ldr 1 2 0#6 ≠ .inp ∧ Instr.ldr 1 2 0#6 ≠ .putsp ∧ Instr.ldr 1 2 0#6 ≠ .halt ∧
      ∃ t, exec (.ldr 1 2 0#6) (kbsrReader (keys [0x61#8])) = .next t :=
  ⟨rfl, rfl, by simp, by simp, by simp, by simp, by simp, by simp, _, rfl⟩

end Sys2Proof.Tests
end

section
/-!
Sign extension (R203): the value of `sext` as a signed and as an unsigned number, for every operand
width up to that of a Word.
-/
namespace Sys2Proof.Machine

variable {k : Nat} {x : BitVec k}

/-- Sign extension keeps the signed value (R203). -/
theorem toInt_sext (hk : k ≤ 16) (x : BitVec k) : (sext x).toInt = x.toInt :=
  BitVec.toInt_signExtend_of_le hk

/-- R203's formula, both cases at once: bit k-1 decides whether 65536 - 2^k is added. -/
theorem toNat_sext (hk : k ≤ 16) (x : BitVec k) :
    (sext x).toNat = x.toNat + if 2 ^ (k - 1) ≤ x.toNat then 65536 - 2 ^ k else 0 := by
  have widened : (x.setWidth 16).toNat = x.toNat := BitVec.toNat_setWidth_of_le hk
  simp [sext, BitVec.toNat_signExtend, widened, BitVec.msb_eq_decide]

/-- R203's formula where the sign bit is clear. -/
theorem toNat_sext_of_lt (hk : k ≤ 16) (h : x.toNat < 2 ^ (k - 1)) :
    (sext x).toNat = x.toNat := by
  rw [toNat_sext hk, if_neg (Nat.not_le.mpr h), Nat.add_zero]

/-- R203's formula where the sign bit is set. -/
theorem toNat_sext_of_le (hk : k ≤ 16) (h : 2 ^ (k - 1) ≤ x.toNat) :
    (sext x).toNat = x.toNat + (65536 - 2 ^ k) := by
  rw [toNat_sext hk, if_pos h]

/-- The widths the instruction set extends fit in a Word. -/
theorem extended_width_le : ∀ k ∈ [5, 6, 9, 11], k ≤ 16 := by decide

/-- Settles O19: each of the four widths fits in a Word, where R203's formula holds of every width. -/
theorem signExtensionWidensTwosComplement : Obligations.SignExtensionWidensTwosComplement := by
  intro k hk x
  have fits : k ≤ 16 := extended_width_le k hk
  exact ⟨toInt_sext fits x, toNat_sext_of_lt fits, toNat_sext_of_le fits⟩

end Sys2Proof.Machine
end

section
/-!
Canonical memories (log 1): in the canonical form the reads determine the list, and the loader's
calls keep the form.
-/
namespace Sys2Proof.Machine

variable {m n : Memory}

/-! ### A canonical memory is determined by its reads -/

theorem Memory.wf_of_cons {c : Cell} (h : Memory.wf (c :: m)) : m.wf :=
  ⟨h.1.of_cons, fun d hd => h.2 d (List.mem_cons_of_mem _ hd)⟩

/-- A listed Word that is not 0x0000 was read from a cell of the list. -/
theorem Memory.mem_of_read {a : Nat} (hv : m.read a ≠ 0x0000#16) : (a, m.read a) ∈ m := by
  induction m with
  | nil => exact absurd rfl hv
  | cons c rest ih =>
    simp only [Memory.read] at hv ⊢
    split
    · rename_i h; exact List.mem_cons.mpr (.inl (by rw [h]))
    · rename_i h; rw [if_neg h] at hv; exact List.mem_cons_of_mem _ (ih hv)

/-- In a canonical memory a listed cell reads its Word: no cell before it has its address. -/
theorem Memory.read_of_mem (h : m.wf) {c : Cell} (hc : c ∈ m) : m.read c.1 = c.2 := by
  induction m with
  | nil => cases hc
  | cons d rest ih =>
    rcases List.mem_cons.mp hc with rfl | hc
    · simp [Memory.read]
    · have rising : d.1 < c.1 := List.rel_of_pairwise_cons h.1 hc
      simpa [Memory.read, Nat.ne_of_gt rising] using ih (wf_of_cons h) hc

/-- Cells of one canonical memory are cells of every memory that reads alike. -/
theorem Memory.mem_of_reads_alike (hm : m.wf)
    (alike : ∀ a : Word, m.read a.toNat = n.read a.toNat) {c : Cell} (hc : c ∈ m) : c ∈ n := by
  obtain ⟨below, nonzero⟩ := hm.2 c hc
  have reads : n.read c.1 = c.2 := by
    have h := alike (BitVec.ofNat 16 c.1)
    rw [BitVec.toNat_ofNat, Nat.mod_eq_of_lt below] at h
    rw [← h, read_of_mem hm hc]
  have listed := mem_of_read (m := n) (a := c.1) (by rwa [reads])
  rwa [reads] at listed

/-- Settles O5: the two lists have the same cells, and a list of rising addresses is determined by
its cells. -/
theorem canonicalMemoriesThatReadAlikeAreEqual :
    Obligations.CanonicalMemoriesThatReadAlikeAreEqual := by
  intro m n hm hn alike
  have : Std.Irrefl fun x y : Cell => x.1 < y.1 := ⟨fun x => Nat.lt_irrefl x.1⟩
  have : Std.Antisymm fun x y : Cell => x.1 < y.1 := ⟨fun _ _ h k => absurd h (Nat.lt_asymm k)⟩
  exact List.Pairwise.eq_of_mem_iff hm.1 hn.1 fun _ =>
    ⟨Memory.mem_of_reads_alike hm alike, Memory.mem_of_reads_alike hn fun a => (alike a).symm⟩

/-! ### The loader -/

theorem wf_loadImage {origin : Word} {words : List Word} (h : m.wf)
    (e : loadImage origin words m = .ok n) : n.wf := by
  unfold loadImage at e
  split at e
  · cases e; exact wf_populate origin words h
  · cases e

theorem wf_loadImages {images : List (Word × List Word)} (h : m.wf)
    (e : loadImages images m = .ok n) : n.wf := by
  induction images generalizing m with
  | nil => cases e; exact h
  | cons image rest ih =>
    simp only [loadImages] at e
    split at e
    · rename_i loaded; exact ih (wf_loadImage h loaded) e
    · cases e

/-- A boot that is accepted starts the machine on a memory the loader made from the empty one. -/
theorem start_of_boot {c : Config} {images : List (Word × List Word)} {s : State}
    (e : boot c images = .ok s) : ∃ m, loadImages images [] = .ok m ∧ s = State.start c m := by
  unfold boot at e
  split at e
  · rename_i m loaded; cases e; exact ⟨m, loaded, rfl⟩
  · cases e

/-- Settles O3: the loader keeps memory canonical, and COND starts as ZERO. -/
theorem invariantHoldsAtBoot : Obligations.InvariantHoldsAtBoot := by
  intro c images s e
  obtain ⟨m, loaded, rfl⟩ := start_of_boot e
  exact ⟨wf_loadImages Memory.wf_nil loaded, .inr (.inl rfl)⟩

end Sys2Proof.Machine
end

section
/-!
Registers and flags (R10, R16): the flag derivation describes its Word.
-/
namespace Sys2Proof.Machine

/-- The derived flag describes its Word (R16). -/
theorem flagDescribes_condOf (v : Word) : FlagDescribes v (condOf v) := by
  rcases condOf_cases v with ⟨rfl, flag⟩ | ⟨nonzero, sign, flag⟩ | ⟨nonzero, sign, flag⟩
  · exact ⟨fun _ => flag, by simp, by simp⟩
  · have : 32768 ≤ v.toNat := of_decide_eq_true (getLsbD_15_eq v ▸ sign)
    exact ⟨by omega, by omega, fun _ => flag⟩
  · have : ¬ 32768 ≤ v.toNat := of_decide_eq_false (getLsbD_15_eq v ▸ sign)
    have : v.toNat ≠ 0 := fun h => nonzero (BitVec.eq_of_toNat_eq h)
    exact ⟨by omega, fun _ => flag, by omega⟩

/-- The derived flag is one of the three (R15). -/
theorem condOf_legal (v : Word) :
    condOf v = flagPos ∨ condOf v = flagZero ∨ condOf v = flagNeg := by
  rcases condOf_cases v with ⟨-, flag⟩ | ⟨-, -, flag⟩ | ⟨-, -, flag⟩ <;> simp [flag]

/-- Settles O21: COND is the flag derived from the register, and `SetCC` writes COND alone. -/
theorem setCCDescribesTheRegister : Obligations.SetCCDescribesTheRegister :=
  fun s r => ⟨flagDescribes_condOf (s.reg r), rfl⟩

/-- Settles O22, by the rules of `setReg`. -/
theorem registerHoldsTheWordLastWritten : Obligations.RegisterHoldsTheWordLastWritten :=
  fun s r q v => ⟨by simp, fun h => by simp [h], State.setReg_pc s r v, State.setReg_cond s r v⟩

end Sys2Proof.Machine
end

section
/-!
What an instruction can end in, said once for all of them (R71, R161): its link write, its device
operations and memory reads, then one last update of its own. The rules about the whole machine
are read off that.
-/
namespace Sys2Proof.Machine

/-! ### What stands before an instruction's device operations -/

/-- The instructions that write the return address to R7 before anything else (R116, R117, R130). -/
def linksPc : Instr → Bool
  | .jsr _ | .jsrr _ => true
  | i => isService i

/-- The state in which an instruction's device operations start: after the link write, if it makes
one. -/
def State.begun (s : State) (i : Instr) : State := if linksPc i then s.link else s

section
variable (s : State) (i : Instr)

@[simp] theorem State.begun_cell (a : Word) : (s.begun i).cell a = s.cell a := by
  unfold State.begun; split <;> rfl
@[simp] theorem State.begun_pc : (s.begun i).pc = s.pc := by
  unfold State.begun; split <;> rfl
@[simp] theorem State.begun_cond : (s.begun i).cond = s.cond := by
  unfold State.begun; split <;> rfl
@[simp] theorem State.begun_mem : (s.begun i).mem = s.mem := by
  unfold State.begun; split <;> rfl
@[simp] theorem State.begun_runState : (s.begun i).runState = s.runState := by
  unfold State.begun; split <;> rfl
@[simp] theorem State.begun_output : (s.begun i).output = s.output := by
  unfold State.begun; split <;> rfl
@[simp] theorem State.begun_input : (s.begun i).input = s.input := by
  unfold State.begun; split <;> rfl
@[simp] theorem State.begun_outputFailsAfter :
    (s.begun i).outputFailsAfter = s.outputFailsAfter := by
  unfold State.begun; split <;> rfl
@[simp] theorem State.begun_cancelAfter : (s.begun i).cancelAfter = s.cancelAfter := by
  unfold State.begun; split <;> rfl
@[simp] theorem State.begun_config : (s.begun i).config = s.config := by
  unfold State.begun; split <;> rfl

end

theorem State.begun_reg {s : State} {i : Instr} {r : Reg} (h : linksPc i = true → r ≠ linkReg) :
    (s.begun i).reg r = s.reg r := by
  unfold State.begun
  split
  · rename_i links; simp [h links]
  · rfl

/-! ### The tables of R11 and R17 -/

theorem linkReg_mem_regsWritten {i : Instr} (h : linksPc i = true) : linkReg ∈ regsWritten i := by
  cases i with
  | trap vect8 => simp only [regsWritten]; split <;> simp
  | _ => simp_all [linksPc, isService, regsWritten]

theorem mem_regsWritten_of_definesReg {i : Instr} {dr : Reg} (h : definesReg i = some dr) :
    dr ∈ regsWritten i := by
  cases i with
  | trap vect8 => unfold definesReg at h; unfold regsWritten; split at h <;> simp_all
  | _ => simp_all [definesReg, regsWritten]

/-- A service defines R0 if it defines a register, never the link register. -/
theorem ne_linkReg_of_definesReg {i : Instr} {dr : Reg} (h : definesReg i = some dr)
    (links : linksPc i = true) : dr ≠ linkReg := by
  have service : dr = serviceReg := by
    cases i with
    | trap vect8 => unfold definesReg at h; split at h <;> simp_all
    | _ => simp_all [definesReg, linksPc, isService]
  subst service
  decide

theorem definesReg_of_isStore {i : Instr} (h : isStore i = true) : definesReg i = none := by
  cases i <;> simp_all [isStore, definesReg]

theorem definesReg_of_writesPc {i : Instr} (h : writesPc i = true) : definesReg i = none := by
  cases i <;> simp_all [writesPc, definesReg]

/-! ### The ends of an instruction -/

/-- The ends of device operations and memory reads from `s` with a last update after them. `d` is
the register that a completed run defines; without one, it ends as it is or raises. -/
inductive IoEnd : Option Reg → State → State → Prop
  | failed {d s t} (io : IoEffect s t) (halted : t.runState = .halted .hostIOError) : IoEnd d s t
  | defined {dr s u} (v : Word) (io : IoEffect s u) : IoEnd (some dr) s (u.define dr v)
  | finished {s t} (io : IoEffect s t) : IoEnd none s t
  | raised {s u} (k : HaltKind) (io : IoEffect s u) : IoEnd none s (u.raise k)

/-- Every next state of an instruction: the end of its device operations and reads, a store after
them, or a jump. -/
inductive InstrEnd (i : Instr) (s : State) : State → Prop
  | io {t} (h : IoEnd (definesReg i) (s.begun i) t) : InstrEnd i s t
  | stored {u} (a v : Word) (store : isStore i = true) (io : IoEffect s u) :
      InstrEnd i s (u.store a v)
  | jumped (v : Word) (jump : writesPc i = true) : InstrEnd i s ((s.begun i).setPc v)

/-- Device operations before an end are part of it. -/
theorem IoEnd.after {d : Option Reg} {s t u : State} (io : IoEffect s t) (h : IoEnd d t u) :
    IoEnd d s u := by
  cases h with
  | failed io' halted => exact .failed (io.trans io') halted
  | defined v io' => exact .defined v (io.trans io')
  | finished io' => exact .finished (io.trans io')
  | raised k io' => exact .raised k (io.trans io')

theorem NextAll.mono {P Q : State → Prop} {o : Host.Outcome State Fault Refusal}
    (h : NextAll P o) (hPQ : ∀ t, P t → Q t) : NextAll Q o := by
  cases o with
  | next t => exact hPQ t h
  | fault f => trivial
  | refused f => trivial

/-! ### The ends of the loads and STI -/

section
variable {α : Type} {d : Option Reg} {s : State}

/-- A device operation before the last part of an instruction. -/
theorem IoOp.andThen_ends {r : Result α} {k : α → State → Host.Outcome State Fault Refusal}
    (h : IoOp s r) (hk : ∀ v t, NextAll (IoEnd d t) (k v t)) :
    NextAll (IoEnd d s) (r.andThen k) :=
  Result.Ends.andThen h (fun _ ⟨io, halted, _⟩ => .failed io halted) fun v t ⟨⟨io, _⟩, _⟩ =>
    (hk v t).mono fun _ => .after io

/-- A read, then the definition of a register by what it returned: LD and LDR. -/
theorem memRead_define_ends (a : Word) (dr : Reg) (s : State) :
    NextAll (IoEnd (some dr) s) ((memRead a s).andThen fun v t => .next (t.define dr v)) :=
  (memRead_io a s).andThen_ends fun v t => .defined v (IoEffect.rfl' t)

theorem execSti_ends (sr : Reg) (off9 : BitVec 9) (s : State) :
    NextAll (InstrEnd (.sti sr off9) s) (execSti sr off9 s) :=
  Result.Ends.andThen (memRead_io _ s) (fun _ ⟨io, halted, _⟩ => .io (.failed io halted))
    fun _ _ ⟨⟨io, _⟩, _⟩ => .stored _ _ rfl io

/-! ### The ends of the trap services -/

/-- Every end of a service, be it by raising or not. -/
abbrev ServiceEnds (d : Option Reg) (s : State) (r : Result Unit) : Prop :=
  r.Ends (fun _ => IoEnd d s) (IoEnd d s)

/-- A device operation before the last part of a service. -/
theorem IoOp.bind_ends {r : Result α} {k : α → State → Result Unit}
    (h : IoOp s r) (hk : ∀ v t, ServiceEnds d t (k v t)) : ServiceEnds d s (r.bind k) :=
  Result.Ends.bind h (fun _ ⟨io, halted, _⟩ => .failed io halted) fun v t ⟨⟨io, _⟩, _⟩ =>
    (hk v t).mono (fun _ _ => .after io) fun _ => .after io

/-- A service that is device operations alone. -/
theorem IoOp.serviceEnds {r : Result Unit} (h : IoOp s r) : ServiceEnds none s r :=
  h.mono (fun _ _ ⟨⟨io, _⟩, _⟩ => .finished io) fun _ ⟨io, halted, _⟩ => .failed io halted

theorem ServiceEnds.outcome {r : Result Unit} (h : ServiceEnds d s r) :
    NextAll (IoEnd d s) r.outcome :=
  Result.Ends.outcome h (fun _ => id) fun _ => id

end

theorem getcService_ends (s : State) : ServiceEnds (some serviceReg) s (getcService s) :=
  (inRead_io s).bind_ends fun _ t => .defined _ (IoEffect.rfl' t)

theorem inService_ends (s : State) : ServiceEnds (some serviceReg) s (inService s) :=
  (outWriteAll_io _ s).bind_ends fun _ s1 => (inRead_io s1).bind_ends fun b s2 =>
    (outWrite_io b s2).bind_ends fun _ s3 => .defined _ (IoEffect.rfl' s3)

theorem haltService_ends (s : State) : ServiceEnds none s (haltService s) :=
  (outWriteAll_io _ s).bind_ends fun _ t => .raised _ (IoEffect.rfl' t)

/-- The generic TRAP ends as the service its vector names, or by InvalidTrapVector. -/
theorem trapDispatch_ends (vect8 : BitVec 8) (s : State) :
    ServiceEnds (definesReg (.trap vect8)) s (trapDispatch vect8 s) := by
  unfold trapDispatch
  split
  · subst vect8; exact getcService_ends s
  split
  · subst vect8; exact (outWrite_io _ s).serviceEnds
  split
  · subst vect8; exact (walkString_io _ _ _ s).serviceEnds
  split
  · subst vect8; exact inService_ends s
  split
  · subst vect8; exact (walkString_io _ _ _ s).serviceEnds
  split
  · subst vect8; exact haltService_ends s
  · have undefining : definesReg (.trap vect8) = none := by simp_all [definesReg]
    rw [undefining]
    exact .raised _ (IoEffect.rfl' s)

/-! ### The ends of every instruction -/

theorem execBr_ends (cond : BitVec 3) (off9 : BitVec 9) (s : State) :
    NextAll (InstrEnd (.br cond off9) s) (execBr cond off9 s) := by
  unfold execBr
  split
  · exact .jumped (i := .br cond off9) _ rfl
  · exact .io (i := .br cond off9) (.finished (IoEffect.rfl' s))

/-- Instructions that neither store nor jump end with their device operations. -/
theorem NextAll.instrEnd {i : Instr} {s : State} {o : Host.Outcome State Fault Refusal}
    (h : NextAll (IoEnd (definesReg i) (s.begun i)) o) : NextAll (InstrEnd i s) o :=
  h.mono fun _ => .io

/-- What `exec` can do, said once: each next state is one of its instruction's ends. -/
theorem exec_ends (i : Instr) (s : State) : NextAll (InstrEnd i s) (exec i s) := by
  have same := IoEffect.rfl' s
  cases i with
  | br cond off9 => exact execBr_ends cond off9 s
  | jmp base => exact .jumped (i := .jmp base) _ rfl
  | jsr off11 => exact .jumped (i := .jsr off11) _ rfl
  | jsrr base => exact .jumped (i := .jsrr base) _ rfl
  | addReg dr sr1 sr2 => exact .io (.defined _ same)
  | addImm dr sr1 imm5 => exact .io (.defined _ same)
  | andReg dr sr1 sr2 => exact .io (.defined _ same)
  | andImm dr sr1 imm5 => exact .io (.defined _ same)
  | notReg dr sr => exact .io (.defined _ same)
  | lea dr off9 => exact .io (.defined _ same)
  | ld dr off9 => exact NextAll.instrEnd (memRead_define_ends _ dr s)
  | ldr dr base off6 => exact NextAll.instrEnd (memRead_define_ends _ dr s)
  | ldi dr off9 =>
    exact NextAll.instrEnd ((memRead_io _ s).andThen_ends fun p t => memRead_define_ends p dr t)
  | st sr off9 => exact .stored _ _ rfl same
  | str sr base off6 => exact .stored _ _ rfl same
  | sti sr off9 => exact execSti_ends sr off9 s
  | rti => exact .io (.raised _ same)
  | res => exact .io (.raised _ same)
  | trap vect8 => exact NextAll.instrEnd (trapDispatch_ends vect8 s.link).outcome
  | getc => exact NextAll.instrEnd (getcService_ends s.link).outcome
  | out => exact NextAll.instrEnd (outWrite_io _ s.link).serviceEnds.outcome
  | puts => exact NextAll.instrEnd (walkString_io _ _ _ s.link).serviceEnds.outcome
  | inp => exact NextAll.instrEnd (inService_ends s.link).outcome
  | putsp => exact NextAll.instrEnd (walkString_io _ _ _ s.link).serviceEnds.outcome
  | halt => exact NextAll.instrEnd (haltService_ends s.link).outcome

end Sys2Proof.Machine
end

section
/-!
The rules about the whole machine (R11, R13, R15, R17), read off the ends of an instruction.
-/
namespace Sys2Proof.Machine

variable {i : Instr} {d : Option Reg} {s t : State}

/-! ### The invariant -/

theorem IoEffect.inv (io : IoEffect s t) (h : s.inv) : t.inv := by
  obtain ⟨canonical, legal⟩ := h
  refine ⟨io.wf canonical, ?_⟩
  rwa [State.condLegal, io.cond]

theorem State.begun_inv (h : s.inv) : (s.begun i).inv := by
  unfold State.begun
  split <;> exact h

theorem State.define_inv (dr : Reg) (v : Word) (h : s.inv) : (s.define dr v).inv :=
  ⟨h.1, condOf_legal _⟩

theorem State.store_inv (a v : Word) (h : s.inv) : (s.store a v).inv :=
  ⟨Memory.wf_write h.1 a.isLt v, h.2⟩

theorem IoEnd.inv (e : IoEnd d s t) (h : s.inv) : t.inv := by
  cases e with
  | failed io => exact io.inv h
  | defined v io => exact State.define_inv _ v (io.inv h)
  | finished io => exact io.inv h
  | raised k io => exact io.inv h

theorem InstrEnd.inv (e : InstrEnd i s t) (h : s.inv) : t.inv := by
  cases e with
  | io e => exact e.inv (State.begun_inv h)
  | stored a v _ io => exact State.store_inv a v (io.inv h)
  | jumped v _ => exact State.begun_inv h

theorem exec_inv (i : Instr) (h : s.inv) : NextAll State.inv (exec i s) :=
  (exec_ends i s).mono fun _ e => e.inv h

theorem sampleCancel_inv (h : s.inv) : (sampleCancel s).Ends (fun _ => State.inv) State.inv := by
  rcases sampleCancel_cases s with ⟨-, e⟩ | ⟨-, e⟩ | ⟨n, -, e⟩ <;> (rw [e]; exact h)

theorem fetch_inv (h : s.inv) : (fetch s).Ends (fun _ => State.inv) State.inv :=
  Result.Ends.bind (memRead_io s.pc s) (fun _ ⟨io, _⟩ => io.inv h)
    fun _ _ ⟨⟨io, _⟩, _⟩ => io.inv h

theorem runCycle_inv (h : s.inv) : NextAll State.inv (runCycle s) :=
  (sampleCancel_inv h).andThen (fun _ => id) fun _ _ h1 =>
    (fetch_inv h1).andThen (fun _ => id) fun _ _ h2 => exec_inv _ h2

/-- Settles O4: the cancellation sample, the fetch and every end of an instruction keep it. -/
theorem everyStepKeepsTheInvariant : Obligations.EveryStepKeepsTheInvariant := by
  intro s t h e
  unfold step at e
  split at e
  · exact (runCycle_inv h).next e
  · cases e

/-! ### Registers, the request and the parameters -/

theorem IoEnd.reg (e : IoEnd d s t) {r : Reg} (h : d ≠ some r) : t.reg r = s.reg r := by
  cases e with
  | failed io => exact io.reg r
  | defined v io =>
    have other : r ≠ _ := fun e => h (congrArg some e.symm)
    simpa [other] using io.reg r
  | finished io => exact io.reg r
  | raised k io => exact io.reg r

theorem IoEnd.config (e : IoEnd d s t) : t.config = s.config := by
  cases e with
  | failed io | defined _ io | finished io | raised _ io => exact io.config

theorem IoEnd.cancelAfter (e : IoEnd d s t) : t.cancelAfter = s.cancelAfter := by
  cases e with
  | failed io | defined _ io | finished io | raised _ io => exact io.cancel

theorem IoEnd.pc (e : IoEnd d s t) : t.pc = s.pc := by
  cases e with
  | failed io | defined _ io | finished io | raised _ io => exact io.pc

theorem State.begun_reg_of_not_written {r : Reg} (h : r ∉ regsWritten i) :
    (s.begun i).reg r = s.reg r :=
  State.begun_reg fun links e => h (e ▸ linkReg_mem_regsWritten links)

theorem InstrEnd.reg (e : InstrEnd i s t) {r : Reg} (h : r ∉ regsWritten i) :
    t.reg r = s.reg r := by
  cases e with
  | io e =>
    have undefined : definesReg i ≠ some r := fun e => h (mem_regsWritten_of_definesReg e)
    exact (e.reg undefined).trans (State.begun_reg_of_not_written h)
  | stored a v _ io => exact io.reg r
  | jumped v _ => exact State.begun_reg_of_not_written h

theorem InstrEnd.config (e : InstrEnd i s t) : t.config = s.config := by
  cases e with
  | io e => exact e.config.trans (s.begun_config i)
  | stored a v _ io => exact io.config
  | jumped v _ => exact s.begun_config i

theorem InstrEnd.cancelAfter (e : InstrEnd i s t) : t.cancelAfter = s.cancelAfter := by
  cases e with
  | io e => exact e.cancelAfter.trans (s.begun_cancelAfter i)
  | stored a v _ io => exact io.cancel
  | jumped v _ => exact s.begun_cancelAfter i

/-- Settles O57: of an instruction's updates only the link write and the definition touch a
register, and both registers are in its list. -/
theorem instructionsWriteOnlyTheirRegisters : Obligations.InstructionsWriteOnlyTheirRegisters := by
  intro i s t e
  have ended := (exec_ends i s).next e
  exact ⟨fun _ => ended.reg, ended.config, ended.cancelAfter⟩

/-! ### PC -/

theorem InstrEnd.pc (e : InstrEnd i s t) (h : writesPc i = false) : t.pc = s.pc := by
  cases e with
  | io e => exact e.pc.trans (s.begun_pc i)
  | stored a v _ io => exact io.pc
  | jumped v jump => rw [h] at jump; cases jump

/-- Settles O56: only a jump's end writes PC. -/
theorem onlyBranchesAndJumpsWritePc : Obligations.OnlyBranchesAndJumpsWritePc :=
  fun i s _ noJump e => ((exec_ends i s).next e).pc noJump

/-! ### COND -/

theorem IoEnd.cond_of_none (e : IoEnd none s t) : t.cond = s.cond := by
  cases e with
  | failed io | finished io | raised _ io => exact io.cond

/-- An end that defines `dr` takes COND from it, or is a device's failure, which defines nothing
(R164, D8). -/
theorem IoEnd.cond_of_some {dr : Reg} (e : IoEnd (some dr) s t) :
    FlagDescribes (t.reg dr) t.cond ∨
      (t.cond = s.cond ∧ t.reg dr = s.reg dr ∧ t.runState = .halted .hostIOError) := by
  cases e with
  | failed io halted => exact .inr ⟨io.cond, io.reg dr, halted⟩
  | defined v io => exact .inl (flagDescribes_condOf _)

theorem InstrEnd.cond_of_none (e : InstrEnd i s t) (h : definesReg i = none) :
    t.cond = s.cond := by
  cases e with
  | io e => rw [h] at e; exact e.cond_of_none.trans (s.begun_cond i)
  | stored a v _ io => exact io.cond
  | jumped v _ => exact s.begun_cond i

/-- Only device operations and reads stand before a definition. -/
theorem InstrEnd.ioEnd_of_some {dr : Reg} (e : InstrEnd i s t) (h : definesReg i = some dr) :
    IoEnd (some dr) (s.begun i) t := by
  cases e with
  | io e => exact h ▸ e
  | stored a v store io => rw [definesReg_of_isStore store] at h; cases h
  | jumped v jump => rw [definesReg_of_writesPc jump] at h; cases h

/-- Settles O54: only a definition writes COND, and the link write before it is of another
register. -/
theorem condIsWrittenByDefinersOnly : Obligations.CondIsWrittenByDefinersOnly := by
  intro i s t e
  have ended := (exec_ends i s).next e
  refine ⟨ended.cond_of_none, fun dr defines => ?_⟩
  have unlinked : (s.begun i).reg dr = s.reg dr :=
    State.begun_reg (ne_linkReg_of_definesReg defines)
  simpa [unlinked] using (ended.ioEnd_of_some defines).cond_of_some

end Sys2Proof.Machine
end

section
/-!
COND is read by BR alone (R17): every operation an instruction is built from does the same from two
states that differ in COND alone, and its ends differ in COND at most.
-/
namespace Sys2Proof.Machine

variable {α β : Type}

/-- The same end of an operation, in states that differ in COND at most. -/
inductive SameEndButCond : Result α → Result α → Prop
  | done (v : α) (s : State) (c : Word) : SameEndButCond (.done v s) (.done v (s.setCond c))
  | raised (s : State) (c : Word) : SameEndButCond (.raised s) (.raised (s.setCond c))
  | awaiting (s : State) (c : Word) :
      SameEndButCond (.stuck (.awaitingInput s)) (.stuck (.awaitingInput (s.setCond c)))
  | stuck (f : Fault) : SameEndButCond (.stuck f) (.stuck f)

/-- An operation that comes to the same whatever COND is. -/
def IgnoresCond (f : State → Result α) : Prop :=
  ∀ s c, SameEndButCond (f s) (f (s.setCond c))

/-! ### Chains -/

theorem SameEndButCond.bind {x y : Result α} {k : α → State → Result β}
    (h : SameEndButCond x y) (hk : ∀ v, IgnoresCond (k v)) :
    SameEndButCond (x.bind k) (y.bind k) := by
  cases h with
  | done v s c => exact hk v s c
  | raised s c => exact .raised s c
  | awaiting s c => exact .awaiting s c
  | stuck f => exact .stuck f

theorem IgnoresCond.bind {f : State → Result α} {k : α → State → Result β} (h : IgnoresCond f)
    (hk : ∀ v, IgnoresCond (k v)) : IgnoresCond fun s => (f s).bind k :=
  fun s c => (h s c).bind hk

theorem OutcomesSameButCond.refl (o : Host.Outcome State Fault Refusal) :
    OutcomesSameButCond o o := by
  cases o with
  | next s => exact (rfl : SameButCond s s)
  | fault f => cases f <;> rfl
  | refused f => rfl

theorem SameEndButCond.andThen {x y : Result α}
    {k : α → State → Host.Outcome State Fault Refusal} (h : SameEndButCond x y)
    (hk : ∀ v s c, OutcomesSameButCond (k v s) (k v (s.setCond c))) :
    OutcomesSameButCond (x.andThen k) (y.andThen k) := by
  cases h with
  | done v s c => exact hk v s c
  | raised s c => exact (rfl : SameButCond s (s.setCond c))
  | awaiting s c => exact (rfl : SameButCond s (s.setCond c))
  | stuck f => exact OutcomesSameButCond.refl (.fault f)

theorem SameEndButCond.outcome {x y : Result Unit} (h : SameEndButCond x y) :
    OutcomesSameButCond x.outcome y.outcome :=
  h.andThen fun _ s c => (rfl : SameButCond s (s.setCond c))

/-! ### The operations -/

theorem ignoresCond_inPoll : IgnoresCond inPoll := by
  intro s c
  simp only [inPoll, State.setCond_input]
  split
  · exact .done _ s c
  · exact .done _ s c
  · exact .done _ (s.setInput _) c
  · exact .raised (s.raise .hostIOError) c
  · exact .done _ s c
  · exact .done _ s c

theorem ignoresCond_inRead : IgnoresCond inRead := by
  intro s c
  simp only [inRead, State.setCond_input]
  split
  · exact .done _ (s.setInput _) c
  · exact .raised (s.raise .hostIOError) c
  · exact .awaiting s c

theorem ignoresCond_outWrite (b : Byte) : IgnoresCond (outWrite b) := by
  intro s c
  simp only [outWrite, State.setCond_outputFailsAfter]
  split
  · exact .done _ (s.emit b) c
  · exact .raised (s.raise .hostIOError) c
  · exact .done _ ((s.emit b).setOutputFails _) c

theorem ignoresCond_outWriteAll (bytes : List Byte) : IgnoresCond (outWriteAll bytes) := by
  induction bytes with
  | nil => exact fun s c => .done () s c
  | cons b rest ih => exact (ignoresCond_outWrite b).bind fun _ => ih

theorem ignoresCond_pollKeyboard : IgnoresCond pollKeyboard := by
  refine ignoresCond_inPoll.bind fun ready s c => ?_
  split
  · exact (ignoresCond_inRead (s.store kbsrAddr kbsrReady) c).bind fun b t c =>
      .done () (t.store kbdrAddr (zext8 b)) c
  · exact .done () (s.store kbsrAddr 0x0000#16) c

theorem ignoresCond_memRead (a : Word) : IgnoresCond (memRead a) := by
  intro s c
  unfold memRead
  split
  · exact (ignoresCond_pollKeyboard s c).bind fun _ t c => .done (t.cell a) t c
  · exact .done (s.cell a) s c

theorem ignoresCond_walkString (bytesOf : Word → List Byte) (n : Nat) (a : Word) :
    IgnoresCond (walkString bytesOf n a) := by
  induction n generalizing a with
  | zero => exact fun _ _ => .stuck .unterminatedString
  | succ n ih =>
    refine (ignoresCond_memRead a).bind fun w s c => ?_
    split
    · exact .done () s c
    · exact (ignoresCond_outWriteAll (bytesOf w) s c).bind fun _ => ih (a + 1#16)

/-! ### The trap services -/

/-- A definition overwrites COND. -/
theorem ignoresCond_define (dr : Reg) (v : Word) :
    IgnoresCond fun s => .done () (s.define dr v) :=
  fun s _ => .done () (s.define dr v) (condOf ((s.setReg dr v).reg dr))

theorem ignoresCond_getcService : IgnoresCond getcService :=
  ignoresCond_inRead.bind fun b => ignoresCond_define serviceReg (zext8 b)

theorem ignoresCond_outService : IgnoresCond outService :=
  fun s => ignoresCond_outWrite (lowByte (s.reg serviceReg)) s

theorem ignoresCond_putsService : IgnoresCond putsService :=
  fun s => ignoresCond_walkString putsBytes (stringReads s) (s.reg serviceReg) s

theorem ignoresCond_putspService : IgnoresCond putspService :=
  fun s => ignoresCond_walkString putspBytes (stringReads s) (s.reg serviceReg) s

theorem ignoresCond_inService : IgnoresCond inService :=
  fun s c => (ignoresCond_outWriteAll s.config.inPrompt s c).bind fun _ =>
    ignoresCond_inRead.bind fun b => (ignoresCond_outWrite b).bind fun _ =>
      ignoresCond_define serviceReg (zext8 b)

theorem ignoresCond_haltService : IgnoresCond haltService :=
  fun s c => (ignoresCond_outWriteAll s.config.haltNotice s c).bind fun _ t c =>
    .raised (t.raise .haltRequested) c

theorem ignoresCond_trapDispatch (vect8 : BitVec 8) : IgnoresCond (trapDispatch vect8) := by
  intro s c
  unfold trapDispatch
  split
  · exact ignoresCond_getcService s c
  split
  · exact ignoresCond_outService s c
  split
  · exact ignoresCond_putsService s c
  split
  · exact ignoresCond_inService s c
  split
  · exact ignoresCond_putspService s c
  split
  · exact ignoresCond_haltService s c
  · exact .raised (s.raise .invalidTrapVector) c

/-- A service after its link write. -/
theorem IgnoresCond.linked {f : State → Result Unit} (h : IgnoresCond f) (s : State) (c : Word) :
    OutcomesSameButCond (f s.link).outcome (f (s.setCond c).link).outcome :=
  (h s.link c).outcome

/-! ### The loads and STI -/

theorem SameEndButCond.load {x y : Result Word} (h : SameEndButCond x y) (dr : Reg) :
    OutcomesSameButCond (x.andThen fun v t => .next (t.define dr v))
      (y.andThen fun v t => .next (t.define dr v)) :=
  h.andThen fun v t c => (rfl : SameButCond (t.define dr v) ((t.setCond c).define dr v))

theorem execLdi_sameButCond (dr : Reg) (off9 : BitVec 9) (s : State) (c : Word) :
    OutcomesSameButCond (execLdi dr off9 s) (execLdi dr off9 (s.setCond c)) :=
  (ignoresCond_memRead (pcRel9 s off9) s c).andThen fun p t c => (ignoresCond_memRead p t c).load dr

theorem execSti_sameButCond (sr : Reg) (off9 : BitVec 9) (s : State) (c : Word) :
    OutcomesSameButCond (execSti sr off9 s) (execSti sr off9 (s.setCond c)) :=
  (ignoresCond_memRead (pcRel9 s off9) s c).andThen fun p t c =>
    (rfl : SameButCond (t.store p (t.reg sr)) ((t.setCond c).store p (t.reg sr)))

/-! ### Every instruction -/

/-- Settles O55: an instruction without device operations is one update that reads no COND; the
others are chains of operations that ignore it. -/
theorem onlyBranchReadsCond : Obligations.OnlyBranchReadsCond := by
  intro i s c noBranch
  cases i with
  | br cond off9 => exact absurd rfl (noBranch cond off9)
  | ld dr off9 => exact (ignoresCond_memRead (pcRel9 s off9) s c).load dr
  | ldr dr base off6 => exact (ignoresCond_memRead (baseOff6 s base off6) s c).load dr
  | ldi dr off9 => exact execLdi_sameButCond dr off9 s c
  | sti sr off9 => exact execSti_sameButCond sr off9 s c
  | trap vect8 => exact (ignoresCond_trapDispatch vect8).linked s c
  | getc => exact ignoresCond_getcService.linked s c
  | out => exact ignoresCond_outService.linked s c
  | puts => exact ignoresCond_putsService.linked s c
  | inp => exact ignoresCond_inService.linked s c
  | putsp => exact ignoresCond_putspService.linked s c
  | halt => exact ignoresCond_haltService.linked s c
  | addReg | addImm | andReg | andImm | notReg | lea => rfl
  | st | str | jmp | jsr | jsrr | rti | res => rfl

end Sys2Proof.Machine
end

section
/-!
Addresses, the plain store and the loader (R33, R45, R46), and a Word stored over the next
instruction (R43).
-/
namespace Sys2Proof.Machine

/-! ### Effective addresses -/

/-- A Word plus a sign-extended offset is their integer sum modulo 65536 (R45). -/
theorem toNat_add_sext {k : Nat} (hk : k ≤ 16) (base : Word) (offset : BitVec k) :
    ((base + sext offset).toNat : Int) = ((base.toNat : Int) + offset.toInt) % 65536 := by
  rw [← toInt_sext hk offset, BitVec.toNat_add, BitVec.toInt_eq_toNat_cond]
  split <;> omega

/-- Settles O20: the three effective addresses are a Word plus a sign-extended offset. -/
theorem effectiveAddressesWrap : Obligations.EffectiveAddressesWrap :=
  fun s base off6 off9 off11 =>
    ⟨toNat_add_sext (by decide) s.pc off9, toNat_add_sext (by decide) s.pc off11,
      toNat_add_sext (by decide) (s.reg base) off6⟩

/-! ### The plain store -/

/-- Settles O23, by the rules of `store`. -/
theorem memoryWriteIsAPlainStore : Obligations.MemoryWriteIsAPlainStore := by
  intro s a v
  refine ⟨by simp, fun b hb => ?_, fun _ _ => rfl, rfl, rfl, ⟨rfl, rfl, rfl⟩, rfl, rfl, rfl⟩
  have other : b ≠ a := fun e => hb (List.mem_singleton.mpr e)
  simp [other]

/-! ### The loader -/

/-- The address of a Word of an image, counted from the image's second Word. -/
theorem add_ofNat_succ (origin : Word) (i : Nat) :
    origin + BitVec.ofNat 16 (i + 1) = origin + 1#16 + BitVec.ofNat 16 i := by
  rw [BitVec.ofNat_add, BitVec.add_comm (BitVec.ofNat 16 i), BitVec.add_assoc]

/-- Within 65536 Words an image does not wrap round to its origin. -/
theorem ne_add_ofNat_succ (origin : Word) {i : Nat} (h : i + 1 < 65536) :
    origin ≠ origin + BitVec.ofNat 16 (i + 1) := by
  intro e
  have := congrArg BitVec.toNat e
  rw [BitVec.toNat_add, BitVec.toNat_ofNat] at this
  omega

/-- The loader leaves every address outside the image. -/
theorem read_populate_of_outside {origin a : Word} {words : List Word} {m : Memory}
    (h : ∀ i, i < words.length → a ≠ origin + BitVec.ofNat 16 i) :
    (populate origin words m).read a.toNat = m.read a.toNat := by
  induction words generalizing origin m with
  | nil => rfl
  | cons w rest ih =>
    have first : a ≠ origin := by simpa using h 0 (Nat.zero_lt_succ _)
    have later : ∀ i, i < rest.length → a ≠ origin + 1#16 + BitVec.ofNat 16 i := fun i hi =>
      add_ofNat_succ origin i ▸ h (i + 1) (Nat.succ_lt_succ hi)
    rw [populate, ih later]
    exact Memory.read_write_ne m w fun e => first (BitVec.eq_of_toNat_eq e)

/-- The loader puts each Word of the image at its address: no later Word of it comes there again. -/
theorem read_populate_at {origin w : Word} {words : List Word} {m : Memory} {i : Nat}
    (fits : words.length ≤ 65536) (h : words[i]? = some w) :
    (populate origin words m).read (origin + BitVec.ofNat 16 i).toNat = w := by
  induction words generalizing origin m i with
  | nil => simp at h
  | cons v rest ih =>
    rw [List.length_cons] at fits
    cases i with
    | zero =>
      have last : ∀ j, j < rest.length → origin ≠ origin + 1#16 + BitVec.ofNat 16 j := fun j hj =>
        add_ofNat_succ origin j ▸ ne_add_ofNat_succ origin (by omega)
      have found : v = w := by simpa using h
      rw [BitVec.add_zero, populate, read_populate_of_outside last, Memory.read_write_same, found]
    | succ i =>
      rw [add_ofNat_succ]
      exact ih (Nat.le_of_succ_le fits) (by simpa using h)

/-- Settles O2: an accepted call is one `populate`. -/
theorem loaderWritesConsecutiveAddresses : Obligations.LoaderWritesConsecutiveAddresses := by
  intro origin words m
  refine ⟨fun fits => ⟨populate origin words m, if_pos fits, ?_, ?_⟩, fun long => ?_⟩
  · exact fun i w h => read_populate_at fits h
  · exact fun a h => read_populate_of_outside h
  · exact if_neg (Nat.not_le.mpr long)

/-! ### A Word stored over the next instruction -/

/-- The state in which an instruction fetched with no device action runs: PC advanced, and the
request one step boundary nearer (R70, R72). -/
def State.advanced (s : State) : State :=
  (s.setCancel (s.cancelAfter.map fun n => n - 1)).setPc (s.pc + 1#16)

section
variable (s : State)

@[simp] theorem State.advanced_reg (r : Reg) : s.advanced.reg r = s.reg r := rfl
@[simp] theorem State.advanced_cell (a : Word) : s.advanced.cell a = s.cell a := rfl
@[simp] theorem State.advanced_pc : s.advanced.pc = s.pc + 1#16 := rfl
@[simp] theorem State.advanced_runState : s.advanced.runState = s.runState := rfl
@[simp] theorem State.advanced_cancelAfter :
    s.advanced.cancelAfter = s.cancelAfter.map fun n => n - 1 := rfl

end

/-- A step whose request is not raised and whose fetch is not from KBSR runs the instruction at
PC. -/
theorem step_of_plain_fetch {s : State} (running : s.runState = .running)
    (notCancelled : s.cancelAfter ≠ some 0) (plain : s.pc ≠ kbsrAddr) :
    step s = exec (decode (s.cell s.pc)) s.advanced := by
  rw [step_of_not_cancelled running notCancelled, fetch_of_ne (by simpa using plain)]
  rfl

/-- A request further away than the next step boundary is not raised at it. -/
theorem map_pred_ne_some_zero {c : Option Nat} (now : c ≠ some 0) (next : c ≠ some 1) :
    (c.map fun n => n - 1) ≠ some 0 := by
  cases c with
  | none => simp
  | some n => simp at now next ⊢; omega

/-- ST with offset 0 stores over the instruction that is fetched next (R105, R72). -/
theorem exec_st_offset_zero (sr : Reg) (s : State) :
    exec (.st sr 0#9) s = .next (s.store s.pc (s.reg sr)) := by
  have address : pcRel9 s 0#9 = s.pc := BitVec.add_zero s.pc
  exact congrArg (fun a => Host.Outcome.next (s.store a (s.reg sr))) address

/-- Settles O10: the store is at the address the next step fetches from. -/
theorem storedWordIsFetchedByTheNextStep : Obligations.StoredWordIsFetchedByTheNextStep := by
  intro s sr running now later plain plainNext isSt
  have first : step s = .next (s.advanced.store (s.pc + 1#16) (s.reg sr)) := by
    rw [step_of_plain_fetch running now plain, isSt, exec_st_offset_zero]
    rfl
  have second := step_of_plain_fetch (s := s.advanced.store (s.pc + 1#16) (s.reg sr)) running
    (map_pred_ne_some_zero now later) plainNext
  have pcNext : s.pc + 2#16 = s.pc + 1#16 + 1#16 := (BitVec.add_assoc s.pc 1#16 1#16).symm
  refine ⟨_, first, rfl, by simp, ?_⟩
  rw [second, pcNext]
  simp [State.advanced, State.setPc, State.setCancel]

end Sys2Proof.Machine
end

section
/-!
A read of KBSR (R31, R48, R164), and the loads and STI in terms of what their reads return
(R95 to R97, R106).
-/
namespace Sys2Proof.Machine

/-! ### The two answers of a poll -/

/-- A poll that finds the byte `b`, read at once, with `rest` left of the script (R31, D4). -/
def State.keyTaken (s : State) (b : Byte) (rest : List InputEvent) : State :=
  ((s.store kbsrAddr kbsrReady).setInput rest).store kbdrAddr (zext8 b)

/-- A poll that finds no byte (R31, D4). -/
def State.noKey (s : State) : State := (s.setInput s.input.tail).store kbsrAddr 0x0000#16

section
variable (s : State) (b : Byte) (rest : List InputEvent)

@[simp] theorem State.keyTaken_kbsr : (s.keyTaken b rest).cell kbsrAddr = kbsrReady := by
  simp [State.keyTaken, kbsrAddr_ne_kbdrAddr]
@[simp] theorem State.keyTaken_kbdr : (s.keyTaken b rest).cell kbdrAddr = zext8 b := by
  simp [State.keyTaken]
@[simp] theorem State.noKey_kbsr : s.noKey.cell kbsrAddr = 0x0000#16 := by simp [State.noKey]

theorem State.keyTaken_cells : SameCellsBut [kbsrAddr, kbdrAddr] s (s.keyTaken b rest) := by
  intro a ha
  obtain ⟨notStatus, notData⟩ : a ≠ kbsrAddr ∧ a ≠ kbdrAddr := by simpa using ha
  simp [State.keyTaken, notStatus, notData]

theorem State.noKey_cells : SameCellsBut [kbsrAddr] s s.noKey := by
  intro a ha
  have notStatus : a ≠ kbsrAddr := by simpa using ha
  simp [State.noKey, notStatus]

@[simp] theorem State.keyTaken_reg (r : Reg) : (s.keyTaken b rest).reg r = s.reg r := rfl
@[simp] theorem State.noKey_reg (r : Reg) : s.noKey.reg r = s.reg r := rfl

end

/-! ### The four answers of a KBSR read -/

section
variable {s : State}

theorem memRead_kbsr_ready {b : Byte} {rest : List InputEvent}
    (h : readyByte s = some (b, rest)) :
    memRead kbsrAddr s = .done kbsrReady (s.keyTaken b rest) := by
  rw [memRead_kbsr, pollKeyboard_ready h]
  exact congrArg (Result.done · _) (s.keyTaken_kbsr b rest)

theorem memRead_kbsr_none (h : noKeyReady s = true) :
    memRead kbsrAddr s = .done 0x0000#16 s.noKey := by
  rw [memRead_kbsr, pollKeyboard_none h]
  exact congrArg (Result.done · _) s.noKey_kbsr

theorem memRead_kbsr_fails {rest : List InputEvent} (h : s.input = .fails :: rest) :
    memRead kbsrAddr s = .raised (s.raise .hostIOError) := by
  rw [memRead_kbsr, pollKeyboard_fails h, Result.bind_raised]

theorem memRead_kbsr_readFails {rest : List InputEvent} (h : s.input = .readFails :: rest) :
    memRead kbsrAddr s = .raised ((s.store kbsrAddr kbsrReady).raise .hostIOError) := by
  rw [memRead_kbsr, pollKeyboard_readFails h, Result.bind_raised]

end

/-- Settles O24, one answer of the device after the other. -/
theorem memoryReadPollsTheKeyboardAtKbsrOnly : Obligations.MemoryReadPollsTheKeyboardAtKbsrOnly := by
  intro s
  refine ⟨fun a h => memRead_ne h s, fun b rest h => ?_, fun h => ?_,
    fun rest h => memRead_kbsr_fails h, fun rest h => memRead_kbsr_readFails h⟩
  · exact ⟨s.keyTaken b rest, memRead_kbsr_ready h, s.keyTaken_kbsr b rest, s.keyTaken_kbdr b rest,
      s.keyTaken_cells b rest, rfl, fun _ _ => rfl, rfl, rfl, ⟨rfl, rfl⟩, rfl, rfl, rfl⟩
  · exact ⟨s.noKey, memRead_kbsr_none h, s.noKey_kbsr, s.noKey_cells, rfl, fun _ _ => rfl, rfl, rfl,
      ⟨rfl, rfl⟩, rfl, rfl, rfl⟩

/-! ### The loads -/

/-- A definition after reads that changed no cell outside `as`. -/
theorem definesOnly_define {s u : State} {as : List Word} (dr : Reg) (v : Word) (io : IoDone s u)
    (cells : SameCellsBut as s u) : DefinesOnly dr v as s (u.define dr v) := by
  obtain ⟨effect, running⟩ := io
  refine ⟨by simp, ?_, fun r hr => ?_, effect.pc, cells, running, effect.cancel, effect.config⟩
  · rw [State.define_cond]
    exact flagDescribes_condOf v
  · have other : r ≠ dr := by simpa using hr
    simpa [other] using effect.reg r

theorem ioDone_of_memRead {s t : State} {a v : Word} (e : memRead a s = .done v t) :
    IoDone s t := by
  have h := memRead_io a s
  rw [e] at h
  exact h.1

section
variable {s : State} {off9 : BitVec 9}

theorem memRead_andThen_of_plain {a : Word} (h : a ≠ kbsrAddr)
    (k : Word → State → Host.Outcome State Fault Refusal) :
    (memRead a s).andThen k = k (s.cell a) s := by
  rw [memRead_ne h, Result.andThen_done]

/-- LDI with its pointer cell away from KBSR is one read, of the address in that cell. -/
theorem exec_ldi_of_plain_pointer (dr : Reg) (h : pcRel9 s off9 ≠ kbsrAddr) :
    exec (.ldi dr off9) s =
      (memRead (s.cell (pcRel9 s off9)) s).andThen fun v t => .next (t.define dr v) :=
  memRead_andThen_of_plain h _

/-- A load that ends with `v` defined in `dr`, with no device action. -/
theorem plain_load {o : Host.Outcome State Fault Refusal} {dr : Reg} {v : Word}
    (h : o = .next (s.define dr v)) :
    ∃ t, o = .next t ∧ SameDevices s t ∧ DefinesOnly dr v [] s t :=
  ⟨_, h, ⟨rfl, rfl, rfl⟩, definesOnly_define dr v ⟨IoEffect.rfl' s, rfl⟩ fun _ _ => rfl⟩

/-- The loads whose data read is of KBSR: that read, then the definition. -/
theorem exec_load_of_kbsr {i : Instr} {dr base : Reg} {off6 : BitVec 6}
    (h : i = .ld dr off9 ∧ pcRel9 s off9 = kbsrAddr ∨
      i = .ldr dr base off6 ∧ baseOff6 s base off6 = kbsrAddr ∨
      i = .ldi dr off9 ∧ pcRel9 s off9 ≠ kbsrAddr ∧ s.cell (pcRel9 s off9) = kbsrAddr) :
    exec i s = (memRead kbsrAddr s).andThen fun v t => .next (t.define dr v) := by
  rcases h with ⟨rfl, address⟩ | ⟨rfl, address⟩ | ⟨rfl, plain, pointer⟩
  · rw [← address]; rfl
  · rw [← address]; rfl
  · rw [exec_ldi_of_plain_pointer dr plain, pointer]

end

/-- Settles O30: reads away from KBSR return the cell and change nothing. -/
theorem loadsDefineTheStoredWord : Obligations.LoadsDefineTheStoredWord := by
  intro s dr base off9 off6
  refine ⟨fun address => plain_load ?_, fun address => plain_load ?_,
    fun pointerCell pointer => plain_load ?_⟩
  · exact memRead_andThen_of_plain address _
  · exact memRead_andThen_of_plain address _
  · rw [exec_ldi_of_plain_pointer dr pointerCell, memRead_andThen_of_plain pointer]

/-- Settles O31: the load defines what the KBSR read returns, and nothing if that read raises. -/
theorem loadsOfKbsrDefineTheFreshStatus : Obligations.LoadsOfKbsrDefineTheFreshStatus := by
  intro s i dr base off9 off6 h
  have load := exec_load_of_kbsr h
  refine ⟨fun b rest key => ?_, fun key => ?_, fun rest key => ?_, fun rest key => ?_⟩
  · have read := memRead_kbsr_ready key
    rw [read] at load
    exact ⟨_, load, definesOnly_define dr _ (ioDone_of_memRead read) (s.keyTaken_cells b rest),
      s.keyTaken_kbsr b rest, s.keyTaken_kbdr b rest, rfl, rfl, rfl⟩
  · have read := memRead_kbsr_none key
    rw [read] at load
    exact ⟨_, load, definesOnly_define dr _ (ioDone_of_memRead read) s.noKey_cells, s.noKey_kbsr,
      rfl, rfl, rfl⟩
  · rw [load, memRead_kbsr_fails key]; rfl
  · rw [load, memRead_kbsr_readFails key]; rfl

/-! ### A pointer read from KBSR -/

section
variable {s : State} {off9 : BitVec 9} (h : pcRel9 s off9 = kbsrAddr)
include h

/-- LDI whose pointer read, of KBSR, returns an address other than KBSR. -/
theorem exec_ldi_of_kbsr_pointer {p : Word} {t : State} (dr : Reg)
    (read : memRead kbsrAddr s = .done p t) (plain : p ≠ kbsrAddr) :
    exec (.ldi dr off9) s = .next (t.define dr (t.cell p)) := by
  rw [exec, execLdi, h, read, Result.andThen_done, memRead_ne plain, Result.andThen_done]

/-- STI whose pointer read is of KBSR. -/
theorem exec_sti_of_kbsr_pointer {p : Word} {t : State} (sr : Reg)
    (read : memRead kbsrAddr s = .done p t) :
    exec (.sti sr off9) s = .next (t.store p (t.reg sr)) := by
  rw [exec, execSti, h, read, Result.andThen_done]

/-- A pointer read from KBSR that raises ends LDI and STI: no load, no store (R161). -/
theorem exec_of_kbsr_pointer_raised {t : State} (r : Reg) (read : memRead kbsrAddr s = .raised t) :
    exec (.ldi r off9) s = .next t ∧ exec (.sti r off9) s = .next t := by
  constructor
  · rw [exec, execLdi, h, read, Result.andThen_raised]
  · rw [exec, execSti, h, read, Result.andThen_raised]

end

/-- A store at `a` on top of changes to the cells `as`. -/
theorem sameCellsBut_cons_store {s t : State} {as : List Word} (cells : SameCellsBut as s t)
    (a v : Word) : SameCellsBut (a :: as) s (t.store a v) := by
  intro c hc
  obtain ⟨other, outside⟩ : c ≠ a ∧ c ∉ as := by simpa using hc
  simpa [other] using cells c outside

theorem State.store_cell_of_ne (s : State) {a b : Word} (v : Word) (h : b ≠ a) :
    (s.store a v).cell b = s.cell b := by simp [h]

/-- Settles O32: the pointer is the Word the poll returns, and neither Word is the address of a
keyboard cell. -/
theorem pointerReadFromKbsrPolls : Obligations.PointerReadFromKbsrPolls := by
  intro s r off9 h
  refine ⟨fun b rest key => ?_, fun key => ?_, fun rest key => ?_, fun rest key => ?_⟩
  · have read := memRead_kbsr_ready key
    have cells := s.keyTaken_cells b rest
    have pointed : (s.keyTaken b rest).cell kbsrReady = s.cell kbsrReady := cells _ (by decide)
    have load := exec_ldi_of_kbsr_pointer h r read (by decide)
    rw [pointed] at load
    constructor
    · exact ⟨_, load, definesOnly_define r _ (ioDone_of_memRead read) cells,
        s.keyTaken_kbsr b rest, s.keyTaken_kbdr b rest, rfl⟩
    · exact ⟨_, exec_sti_of_kbsr_pointer h r read, by simp [kbsrReady],
        (State.store_cell_of_ne _ _ (by decide)).trans (s.keyTaken_kbsr b rest),
        (State.store_cell_of_ne _ _ (by decide)).trans (s.keyTaken_kbdr b rest), rfl,
        sameCellsBut_cons_store cells _ _, fun _ _ => rfl, rfl, rfl, rfl, rfl, rfl⟩
  · have read := memRead_kbsr_none key
    have pointed : s.noKey.cell 0x0000#16 = s.cell 0x0000#16 := s.noKey_cells _ (by decide)
    have load := exec_ldi_of_kbsr_pointer h r read (by decide)
    rw [pointed] at load
    constructor
    · exact ⟨_, load, definesOnly_define r _ (ioDone_of_memRead read) s.noKey_cells, s.noKey_kbsr⟩
    · exact ⟨_, exec_sti_of_kbsr_pointer h r read, by simp,
        (State.store_cell_of_ne _ _ (by decide)).trans s.noKey_kbsr,
        sameCellsBut_cons_store s.noKey_cells _ _, fun _ _ => rfl, rfl, rfl, rfl, rfl, rfl⟩
  · exact exec_of_kbsr_pointer_raised h r (memRead_kbsr_fails key)
  · exact exec_of_kbsr_pointer_raised h r (memRead_kbsr_readFails key)

end Sys2Proof.Machine
end

section
/-!
The devices along every step (R48, R49): the output is only added to, the script only used up.
-/
namespace Sys2Proof.Machine

section
variable {i : Instr} {d : Option Reg} {s t u : State}

/-- The output is only added to, and the script is only used up from the front (R48, R49). -/
structure StreamsKept (s t : State) : Prop where
  output : s.output <+: t.output
  input : t.input <:+ s.input

theorem StreamsKept.of_eq (output : t.output = s.output) (input : t.input = s.input) :
    StreamsKept s t :=
  ⟨output ▸ List.prefix_refl _, input ▸ List.suffix_refl _⟩

theorem StreamsKept.trans (h : StreamsKept s t) (k : StreamsKept t u) : StreamsKept s u :=
  ⟨h.output.trans k.output, k.input.trans h.input⟩

theorem IoEffect.streams (io : IoEffect s t) : StreamsKept s t := ⟨io.output, io.input⟩

theorem IoEnd.streams (e : IoEnd d s t) : StreamsKept s t := by
  cases e with
  | failed io | defined _ io | finished io | raised _ io => exact ⟨io.output, io.input⟩

theorem InstrEnd.streams (e : InstrEnd i s t) : StreamsKept s t := by
  cases e with
  | io e => exact (StreamsKept.of_eq (s.begun_output i) (s.begun_input i)).trans e.streams
  | stored a v _ io => exact ⟨io.output, io.input⟩
  | jumped v _ => exact .of_eq (s.begun_output i) (s.begun_input i)

theorem sampleCancel_streams (s : State) :
    (sampleCancel s).Ends (fun _ => StreamsKept s) (StreamsKept s) := by
  rcases sampleCancel_cases s with ⟨-, e⟩ | ⟨-, e⟩ | ⟨n, -, e⟩ <;> (rw [e]; exact .of_eq rfl rfl)

theorem fetch_streams (s : State) : (fetch s).Ends (fun _ => StreamsKept s) (StreamsKept s) :=
  Result.Ends.bind (memRead_io s.pc s) (fun _ ⟨io, _⟩ => io.streams)
    fun _ _ ⟨⟨io, _⟩, _⟩ => io.streams.trans (.of_eq rfl rfl)

theorem runCycle_streams (s : State) : NextAll (StreamsKept s) (runCycle s) :=
  (sampleCancel_streams s).andThen (fun _ => id) fun _ s1 sampled =>
    (fetch_streams s1).andThen (fun _ => sampled.trans) fun ir s2 fetched =>
      (exec_ends (decode ir) s2).mono fun _ e => (sampled.trans fetched).trans e.streams

end

/-- Settles O59: the cancellation sample, the fetch and every end of an instruction keep both. -/
theorem outputOnlyGrowsAndInputIsOnlyConsumed :
    Obligations.OutputOnlyGrowsAndInputIsOnlyConsumed := by
  intro s t e
  have kept : StreamsKept s t := by
    unfold step at e
    split at e
    · exact (runCycle_streams s).next e
    · cases e
  exact ⟨kept.output, kept.input⟩

end Sys2Proof.Machine
end

section
/-!
What an operation leaves alone, said of any part of the state, and the instructions that leave the
output (R49).
-/
namespace Sys2Proof.Machine

/-! ### Operations that leave a part of the state -/

section
variable {α β γ : Type} {f : State → γ} {s : State}

/-- Every end of the operation has the part `f` of the state as it is in `s`. -/
abbrev Leaves (f : State → γ) (s : State) (r : Result α) : Prop :=
  r.Ends (fun _ t => f t = f s) (fun t => f t = f s)

/-- Operations chain; the second may use what the first left. -/
theorem Leaves.bind {r : Result α} {k : α → State → Result β} (h : Leaves f s r)
    (hk : ∀ v t, f t = f s → Leaves f t (k v t)) : Leaves f s (r.bind k) :=
  Result.Ends.bind h (fun _ => id) fun v t e =>
    (hk v t e).mono (fun _ _ e' => e'.trans e) fun _ e' => e'.trans e

theorem Leaves.andThen {r : Result α} {k : α → State → Host.Outcome State Fault Refusal}
    (h : Leaves f s r) (hk : ∀ v t, NextAll (fun u => f u = f t) (k v t)) :
    NextAll (fun u => f u = f s) (r.andThen k) :=
  Result.Ends.andThen h (fun _ => id) fun v t e => (hk v t).mono fun _ e' => e'.trans e

theorem Leaves.outcome {r : Result Unit} (h : Leaves f s r) :
    NextAll (fun u => f u = f s) r.outcome :=
  Result.Ends.outcome h (fun _ => id) fun _ => id

/-- A read of the input device changes the script and RunState at most. -/
theorem inRead_leaves (script : ∀ s l, f (State.setInput s l) = f s)
    (raise : ∀ s k, f (State.raise s k) = f s) (s : State) : Leaves f s (inRead s) := by
  unfold inRead
  split
  · exact script s _
  · exact raise s _
  · trivial

theorem getcService_leaves (script : ∀ s l, f (State.setInput s l) = f s)
    (raise : ∀ s k, f (State.raise s k) = f s) (define : ∀ s r v, f (State.define s r v) = f s)
    (s : State) : Leaves f s (getcService s) :=
  (inRead_leaves script raise s).bind fun _ t _ => define t _ _

theorem execBr_leaves (jump : ∀ s v, f (State.setPc s v) = f s) (cond : BitVec 3)
    (off9 : BitVec 9) (s : State) : NextAll (fun t => f t = f s) (execBr cond off9 s) := by
  unfold execBr
  split
  · exact jump s _
  · rfl

end

/-! ### The output -/

theorem inPoll_leaves_output (s : State) : Leaves State.output s (inPoll s) := by
  unfold inPoll
  split <;> rfl

theorem inRead_leaves_output (s : State) : Leaves State.output s (inRead s) :=
  inRead_leaves State.setInput_output State.raise_output s

theorem pollKeyboard_leaves_output (s : State) : Leaves State.output s (pollKeyboard s) := by
  refine (inPoll_leaves_output s).bind fun ready t _ => ?_
  split
  · exact (inRead_leaves_output (t.store kbsrAddr kbsrReady)).bind fun _ _ _ => rfl
  · rfl

theorem memRead_leaves_output (a : Word) (s : State) : Leaves State.output s (memRead a s) := by
  unfold memRead
  split
  · exact (pollKeyboard_leaves_output s).bind fun _ _ _ => rfl
  · rfl

/-- The instructions that are no service write no output: their one device operation is a read. -/
theorem exec_leaves_output {i : Instr} (h : isService i = false ∨ i = .getc) (s : State) :
    NextAll (fun t => t.output = s.output) (exec i s) := by
  cases i with
  | br cond off9 => exact execBr_leaves State.setPc_output cond off9 s
  | ld dr off9 => exact (memRead_leaves_output _ s).andThen fun _ _ => rfl
  | ldr dr base off6 => exact (memRead_leaves_output _ s).andThen fun _ _ => rfl
  | ldi dr off9 =>
    exact (memRead_leaves_output _ s).andThen fun p t =>
      (memRead_leaves_output p t).andThen fun _ _ => rfl
  | sti sr off9 => exact (memRead_leaves_output _ s).andThen fun _ _ => rfl
  | getc =>
    exact (getcService_leaves State.setInput_output State.raise_output State.define_output
      s.link).outcome
  | addReg | addImm | andReg | andImm | notReg | lea => rfl
  | st | str | jmp | jsr | jsrr | rti | res => rfl
  | trap | out | puts | inp | putsp | halt => simp [isService] at h

/-- Settles O60: what is left are the instructions that are no service, and GETC. -/
theorem onlyTrapServicesWriteOutput : Obligations.OnlyTrapServicesWriteOutput := by
  intro i s t noTrap noOut noPuts noIn noPutsp noHalt e
  have silent : isService i = false ∨ i = .getc := by
    cases i with
    | trap v => exact absurd rfl (noTrap v)
    | _ => simp_all [isService]
  exact (exec_leaves_output silent s).next e

end Sys2Proof.Machine
end

section
/-!
What an instruction that is no store leaves of memory (R31, R36, R37): every cell but KBSR and KBDR,
and all of memory unless it reads KBSR. A string service meets its terminator or a failing output
before that cell, or does read it (D10, D8).
-/
namespace Sys2Proof.Machine

/-! ### The cells, where a data read may be of KBSR -/

section
variable {i : Instr} {d : Option Reg} {s t : State}

theorem IoEnd.cells (e : IoEnd d s t) : SameCellsBut [kbsrAddr, kbdrAddr] s t := by
  cases e with
  | failed io | defined _ io | finished io | raised _ io => exact io.cells

theorem InstrEnd.cells (e : InstrEnd i s t) (noStore : isStore i = false) :
    SameCellsBut [kbsrAddr, kbdrAddr] s t := by
  cases e with
  | io e => exact fun a ha => (e.cells a ha).trans (s.begun_cell i a)
  | stored a v store io => rw [noStore] at store; cases store
  | jumped v _ => exact fun a _ => s.begun_cell i a

end

/-! ### Memory, where no data read is of KBSR -/

theorem memRead_leaves_mem {a : Word} (h : a ≠ kbsrAddr) (s : State) :
    Leaves State.mem s (memRead a s) := by
  rw [memRead_ne h]
  rfl

theorem outWrite_leaves_mem (b : Byte) (s : State) : Leaves State.mem s (outWrite b s) := by
  unfold outWrite
  split <;> rfl

theorem outWriteAll_leaves_mem (bytes : List Byte) (s : State) :
    Leaves State.mem s (outWriteAll bytes s) := by
  induction bytes generalizing s with
  | nil => rfl
  | cons b rest ih => exact (outWrite_leaves_mem b s).bind fun _ t _ => ih t

theorem inService_leaves_mem (s : State) : Leaves State.mem s (inService s) :=
  (outWriteAll_leaves_mem _ s).bind fun _ s1 _ =>
    (inRead_leaves State.setInput_mem State.raise_mem s1).bind fun b s2 _ =>
      (outWrite_leaves_mem b s2).bind fun _ _ _ => rfl

theorem haltService_leaves_mem (s : State) : Leaves State.mem s (haltService s) :=
  (outWriteAll_leaves_mem _ s).bind fun _ _ _ => rfl

/-! ### Strings that reach no cell of KBSR -/

section
variable {s t : State}

/-- Whether a string stands at `a` depends on memory alone. -/
theorem isString_of_mem (h : t.mem = s.mem) (a : Word) (n : Nat) :
    isString t a n = isString s a n := by
  induction n generalizing a with
  | zero => simp [isString, State.cell, h]
  | succ n ih => simp [isString, State.cell, h, ih]

theorem plainWords_of_mem (h : t.mem = s.mem) (a : Word) (n : Nat) :
    plainWords t a n = plainWords s a n := by
  induction n generalizing a with
  | zero => rfl
  | succ n ih => simp [plainWords, State.cell, h, ih]

theorem stringWords_of_mem (h : t.mem = s.mem) (a : Word) (n : Nat) :
    stringWords t a n = stringWords s a n := by
  induction n generalizing a with
  | zero => rfl
  | succ n ih => simp [stringWords, State.cell, h, ih]

end

theorem putsText_eq_flatMap (ws : List Word) : putsText ws = ws.flatMap putsBytes := by
  rw [putsText, List.map_eq_flatMap]
  exact congrArg (List.flatMap · ws) (funext fun w => by rw [putsBytes, lowByte_eq])

theorem putspBytes_eq (w : Word) :
    putspBytes w = if w.toNat < 256 then [BitVec.ofNat 8 w.toNat]
      else [BitVec.ofNat 8 w.toNat, BitVec.ofNat 8 (w.toNat / 256)] := by
  have small : highByte w = 0x00#8 ↔ w.toNat < 256 := by
    rw [highByte_eq, ← BitVec.toNat_inj, BitVec.toNat_ofNat, BitVec.toNat_ofNat]
    omega
  simp only [putspBytes, small]
  rw [lowByte_eq, highByte_eq]

theorem putspText_eq_flatMap (ws : List Word) : putspText ws = ws.flatMap putspBytes :=
  congrArg (List.flatMap · ws) (funext fun w => (putspBytes_eq w).symm)

section
variable {bytesOf : Word → List Byte} {s : State}

/-- One round of a walk at a cell that is not KBSR and holds no terminator. -/
theorem walkString_succ {a : Word} (plain : a ≠ kbsrAddr) (more : s.cell a ≠ 0x0000#16) (m : Nat) :
    walkString bytesOf (m + 1) a s = (outWriteAll (bytesOf (s.cell a)) s).bind fun _ t =>
      walkString bytesOf m (a + 1#16) t := by
  rw [walkString, memRead_ne plain, Result.bind_done, if_neg more]

/-- A walk over a string that does not reach KBSR leaves memory. -/
theorem walkString_leaves_mem_of_isString {a : Word} {n : Nat} (h : isString s a n = true)
    (m : Nat) : Leaves State.mem s (walkString bytesOf m a s) := by
  induction n generalizing a s m with
  | zero =>
    obtain ⟨plain, zero⟩ : a ≠ kbsrAddr ∧ s.cell a = 0x0000#16 := by simpa [isString] using h
    cases m with
    | zero => trivial
    | succ m => rw [walkString, memRead_ne plain, Result.bind_done, if_pos zero]; rfl
  | succ n ih =>
    obtain ⟨⟨plain, more⟩, rest⟩ :
        (a ≠ kbsrAddr ∧ s.cell a ≠ 0x0000#16) ∧ isString s (a + 1#16) n = true := by
      simpa [isString] using h
    cases m with
    | zero => trivial
    | succ m =>
      rw [walkString_succ plain more]
      exact (outWriteAll_leaves_mem _ s).bind fun _ t same =>
        ih (by rwa [isString_of_mem same]) m

theorem acceptsOutput_zero (s : State) : acceptsOutput s 0 = true := by
  unfold acceptsOutput
  split
  · rfl
  · exact decide_eq_true (Nat.zero_le _)

/-- A device that does not accept `bytes` and `n` bytes after them fails within `bytes`, or takes
them and does not accept `n` more. -/
theorem outWriteAll_of_not_accepted {bytes : List Byte} {n : Nat}
    (h : acceptsOutput s (bytes.length + n) = false) :
    (∃ k, outWriteAll bytes s = .raised ((s.wrote (bytes.take k)).raise .hostIOError)) ∨
      (outWriteAll bytes s = .done () (s.wrote bytes) ∧
        acceptsOutput (s.wrote bytes) n = false) := by
  unfold acceptsOutput at h
  split at h
  · cases h
  · rename_i k hk
    have few : k < bytes.length + n := by simpa using h
    by_cases fails : k < bytes.length
    · exact .inl ⟨k, outWriteAll_failing hk fails⟩
    · refine .inr ⟨outWriteAll_accepted ?_, ?_⟩
      · simpa [acceptsOutput, hk] using fails
      · simp [acceptsOutput, hk]
        omega

/-- A walk that the output device cuts before it reaches KBSR leaves memory. -/
theorem walkString_leaves_mem_of_output_fails {a : Word} {n : Nat} (h : plainWords s a n = true)
    (cut : acceptsOutput s ((stringWords s a n).flatMap bytesOf).length = false) (m : Nat) :
    Leaves State.mem s (walkString bytesOf m a s) := by
  induction n generalizing a s m with
  | zero => simp [stringWords, acceptsOutput_zero] at cut
  | succ n ih =>
    obtain ⟨⟨plain, more⟩, rest⟩ :
        (a ≠ kbsrAddr ∧ s.cell a ≠ 0x0000#16) ∧ plainWords s (a + 1#16) n = true := by
      simpa [plainWords] using h
    cases m with
    | zero => trivial
    | succ m =>
      rw [stringWords, List.flatMap_cons, List.length_append] at cut
      rw [walkString_succ plain more]
      rcases outWriteAll_of_not_accepted cut with ⟨k, e⟩ | ⟨e, later⟩
      · rw [e]; rfl
      · rw [e]
        have same : (s.wrote (bytesOf (s.cell a))).mem = s.mem := rfl
        exact ih (by rwa [plainWords_of_mem same]) (by rwa [stringWords_of_mem same]) m

theorem State.link_serviceReg (s : State) : s.link.reg serviceReg = s.reg serviceReg :=
  (s.reg_link serviceReg).trans (if_neg (by decide))

/-- PUTS and PUTSP after their link write, where they read no cell of KBSR. -/
theorem walkString_leaves_mem {text : List Word → List Byte}
    (texts : ∀ ws, text ws = ws.flatMap bytesOf) (h : stringAvoidsKbsr text s) (m : Nat) :
    Leaves State.mem s.link (walkString bytesOf m (s.link.reg serviceReg) s.link) := by
  rw [s.link_serviceReg]
  obtain ⟨n, terminated | ⟨plain, cut⟩⟩ := h
  · exact walkString_leaves_mem_of_isString (n := n) (by rwa [isString_of_mem s.link_mem]) m
  · refine walkString_leaves_mem_of_output_fails (n := n)
      (by rwa [plainWords_of_mem s.link_mem]) ?_ m
    rw [stringWords_of_mem s.link_mem, ← texts]
    exact cut

end

theorem putsService_leaves_mem {s : State} (h : stringAvoidsKbsr putsText s) :
    Leaves State.mem s.link (putsService s.link) :=
  walkString_leaves_mem putsText_eq_flatMap h _

theorem putspService_leaves_mem {s : State} (h : stringAvoidsKbsr putspText s) :
    Leaves State.mem s.link (putspService s.link) :=
  walkString_leaves_mem putspText_eq_flatMap h _

theorem getcService_leaves_mem (s : State) : Leaves State.mem s (getcService s) :=
  getcService_leaves State.setInput_mem State.raise_mem State.define_mem s

theorem trapDispatch_leaves_mem {vect8 : BitVec 8} {s : State}
    (h : readsAvoidKbsr (.trap vect8) s) :
    Leaves State.mem s.link (trapDispatch vect8 s.link) := by
  obtain ⟨puts, putsp⟩ := h
  unfold trapDispatch
  split
  · exact getcService_leaves_mem s.link
  split
  · exact outWrite_leaves_mem _ s.link
  split
  · exact putsService_leaves_mem (puts ‹_›)
  split
  · exact inService_leaves_mem s.link
  split
  · exact putspService_leaves_mem (putsp ‹_›)
  split
  · exact haltService_leaves_mem s.link
  · rfl

/-! ### Every instruction but the stores -/

/-- An instruction that neither stores nor reads KBSR leaves memory. -/
theorem exec_leaves_mem {i : Instr} {s : State} (noStore : isStore i = false)
    (h : readsAvoidKbsr i s) : NextAll (fun t => t.mem = s.mem) (exec i s) := by
  cases i with
  | br cond off9 => exact execBr_leaves State.setPc_mem cond off9 s
  | ld dr off9 => exact (memRead_leaves_mem h s).andThen fun _ _ => rfl
  | ldr dr base off6 => exact (memRead_leaves_mem h s).andThen fun _ _ => rfl
  | ldi dr off9 =>
    obtain ⟨pointerCell, pointer⟩ := h
    rw [exec_ldi_of_plain_pointer dr pointerCell]
    exact (memRead_leaves_mem pointer s).andThen fun _ _ => rfl
  | trap vect8 => exact (trapDispatch_leaves_mem h).outcome
  | getc => exact (getcService_leaves_mem s.link).outcome
  | out => exact (outWrite_leaves_mem _ s.link).outcome
  | puts => exact (putsService_leaves_mem h).outcome
  | inp => exact (inService_leaves_mem s.link).outcome
  | putsp => exact (putspService_leaves_mem h).outcome
  | halt => exact (haltService_leaves_mem s.link).outcome
  | addReg | addImm | andReg | andImm | notReg | lea => rfl
  | jmp | jsr | jsrr | rti | res => rfl
  | st | sti | str => cases noStore

/-- Settles O58: a KBSR read changes KBSR and KBDR alone, and no other operation outside the stores
touches memory. -/
theorem onlyStoresAndKbsrReadsChangeMemory : Obligations.OnlyStoresAndKbsrReadsChangeMemory := by
  intro i s t noStore e
  refine ⟨((exec_ends i s).next e).cells noStore, fun h a _ => ?_⟩
  have same : t.mem = s.mem := (exec_leaves_mem noStore h).next e
  exact congrArg (Memory.read · a.toNat) same

end Sys2Proof.Machine
end

section
/-!
The decoder against the formats of R53 and the table of R52. Three things settle what a Word decodes
to: the row it matches, the operands read from its bits, and that the generic TRAP row stands beside
no service's. The Words built from a format's fields come first.
-/
namespace Sys2Proof.Machine

open Sys2Proof.Laws.EncodedOpcode (opcodeNumber)

/-! ### Words built from a format's fields (R53) -/

section
variable (r q p : BitVec 3) (x2 : BitVec 2) (x4 : BitVec 4) (i5 : BitVec 5) (x6 : BitVec 6)
  (v8 : BitVec 8) (o9 : BitVec 9) (o11 : BitVec 11) (x12 : BitVec 12)

theorem decode_brWord : decode (0b0000#4 ++ r ++ o9) = .br r o9 := by
  simp [decode, opcodeOf_formatOp3Off9, condOfIr_formatOp3Off9, off9Of_formatOp3Off9]

theorem decode_ldWord : decode (0b0010#4 ++ r ++ o9) = .ld r.toFin o9 := by
  simp [decode, opcodeOf_formatOp3Off9, regField9_formatOp3Off9, off9Of_formatOp3Off9]

theorem decode_stWord : decode (0b0011#4 ++ r ++ o9) = .st r.toFin o9 := by
  simp [decode, opcodeOf_formatOp3Off9, regField9_formatOp3Off9, off9Of_formatOp3Off9]

theorem decode_ldiWord : decode (0b1010#4 ++ r ++ o9) = .ldi r.toFin o9 := by
  simp [decode, opcodeOf_formatOp3Off9, regField9_formatOp3Off9, off9Of_formatOp3Off9]

theorem decode_stiWord : decode (0b1011#4 ++ r ++ o9) = .sti r.toFin o9 := by
  simp [decode, opcodeOf_formatOp3Off9, regField9_formatOp3Off9, off9Of_formatOp3Off9]

theorem decode_leaWord : decode (0b1110#4 ++ r ++ o9) = .lea r.toFin o9 := by
  simp [decode, opcodeOf_formatOp3Off9, regField9_formatOp3Off9, off9Of_formatOp3Off9]

theorem decode_addRegWord :
    decode (0b0001#4 ++ r ++ q ++ 0b0#1 ++ x2 ++ p) = .addReg r.toFin q.toFin p.toFin := by
  simp [decode, opcodeOf_formatOpr, bitField5_formatOpr, regField9_formatOpr, regField6_formatOpr,
    regField0_formatOpr]

theorem decode_andRegWord :
    decode (0b0101#4 ++ r ++ q ++ 0b0#1 ++ x2 ++ p) = .andReg r.toFin q.toFin p.toFin := by
  simp [decode, opcodeOf_formatOpr, bitField5_formatOpr, regField9_formatOpr, regField6_formatOpr,
    regField0_formatOpr]

theorem decode_addImmWord :
    decode (0b0001#4 ++ r ++ q ++ 0b1#1 ++ i5) = .addImm r.toFin q.toFin i5 := by
  simp [decode, opcodeOf_formatOpi, bitField5_formatOpi, regField9_formatOpi, regField6_formatOpi,
    imm5Of_formatOpi]

theorem decode_andImmWord :
    decode (0b0101#4 ++ r ++ q ++ 0b1#1 ++ i5) = .andImm r.toFin q.toFin i5 := by
  simp [decode, opcodeOf_formatOpi, bitField5_formatOpi, regField9_formatOpi, regField6_formatOpi,
    imm5Of_formatOpi]

theorem decode_ldrWord : decode (0b0110#4 ++ r ++ q ++ x6) = .ldr r.toFin q.toFin x6 := by
  simp [decode, opcodeOf_formatTwoReg6, regField9_formatTwoReg6, regField6_formatTwoReg6,
    off6Of_formatTwoReg6]

theorem decode_strWord : decode (0b0111#4 ++ r ++ q ++ x6) = .str r.toFin q.toFin x6 := by
  simp [decode, opcodeOf_formatTwoReg6, regField9_formatTwoReg6, regField6_formatTwoReg6,
    off6Of_formatTwoReg6]

theorem decode_notWord : decode (0b1001#4 ++ r ++ q ++ x6) = .notReg r.toFin q.toFin := by
  simp [decode, opcodeOf_formatTwoReg6, regField9_formatTwoReg6, regField6_formatTwoReg6]

theorem decode_jmpWord : decode (0b1100#4 ++ q ++ r ++ x6) = .jmp r.toFin := by
  simp [decode, opcodeOf_formatTwoReg6, regField6_formatTwoReg6]

theorem decode_jsrWord : decode (0b0100#4 ++ 0b1#1 ++ o11) = .jsr o11 := by
  simp [-BitVec.reduceAppend, decode, opcodeOf_formatJs, bitField11_formatJs, off11Of_formatJs]

theorem decode_jsrrWord : decode (0b0100#4 ++ 0b0#1 ++ x2 ++ r ++ x6) = .jsrr r.toFin := by
  simp [-BitVec.reduceAppend, decode, opcodeOf_formatJr, bitField11_formatJr, regField6_formatJr]

theorem decode_rtiWord : decode (0b1000#4 ++ x12) = .rti := by
  simp [decode, opcodeOf_formatNoField]

theorem decode_resWord : decode (0b1101#4 ++ x12) = .res := by
  simp [decode, opcodeOf_formatNoField]

theorem decode_trapWord : decode (0b1111#4 ++ x4 ++ v8) = decodeTrap v8 := by
  simp [decode, opcodeOf_formatTrap, vect8Of_formatTrap]

end

/-- The generic row is given for the vectors that name no service (R130). -/
theorem decodeTrap_of_unmapped {v : BitVec 8} (h : v ∉ mappedVectors) : decodeTrap v = .trap v := by
  simp_all [decodeTrap, mappedVectors]

/-- Settles O14, one format after the other. -/
theorem decodeReadsEachFormatsFields : Obligations.DecodeReadsEachFormatsFields := by
  intro r q p x2 x4 i5 x6 v8 o9 o11 x12
  exact ⟨decode_brWord r o9, decode_addRegWord r q p x2, decode_addImmWord r q i5,
    decode_ldWord r o9, decode_stWord r o9, decode_jsrWord o11, decode_jsrrWord r x2 x6,
    decode_andRegWord r q p x2, decode_andImmWord r q i5, decode_ldrWord r q x6,
    decode_strWord r q x6, decode_rtiWord x12, decode_notWord r q x6, decode_ldiWord r o9,
    decode_stiWord r o9, decode_jmpWord r q x6, decode_resWord x12, decode_leaWord r o9,
    decode_trapWord x4 0x20#8, decode_trapWord x4 0x21#8, decode_trapWord x4 0x22#8,
    decode_trapWord x4 0x23#8, decode_trapWord x4 0x24#8, decode_trapWord x4 0x25#8,
    fun unmapped => (decode_trapWord x4 v8).trans (decodeTrap_of_unmapped unmapped)⟩

/-- Settles O13: the canonical Word of each constructor is a Word of its format, with 0 or, in NOT,
1 in the ignored bits. -/
theorem decodeOfEncodeIsTheInstruction : Obligations.DecodeOfEncodeIsTheInstruction := by
  intro i wf
  cases i with
  | br cond off9 => exact decode_brWord cond off9
  | addReg dr sr1 sr2 => exact decode_addRegWord (regBits dr) (regBits sr1) (regBits sr2) 0#2
  | addImm dr sr1 imm5 => exact decode_addImmWord (regBits dr) (regBits sr1) imm5
  | ld dr off9 => exact decode_ldWord (regBits dr) off9
  | st sr off9 => exact decode_stWord (regBits sr) off9
  | jsr off11 => exact decode_jsrWord off11
  | jsrr base => exact decode_jsrrWord (regBits base) 0#2 0#6
  | andReg dr sr1 sr2 => exact decode_andRegWord (regBits dr) (regBits sr1) (regBits sr2) 0#2
  | andImm dr sr1 imm5 => exact decode_andImmWord (regBits dr) (regBits sr1) imm5
  | ldr dr base off6 => exact decode_ldrWord (regBits dr) (regBits base) off6
  | str sr base off6 => exact decode_strWord (regBits sr) (regBits base) off6
  | rti => exact decode_rtiWord 0#12
  | notReg dr sr => exact decode_notWord (regBits dr) (regBits sr) 0b111111#6
  | ldi dr off9 => exact decode_ldiWord (regBits dr) off9
  | sti sr off9 => exact decode_stiWord (regBits sr) off9
  | jmp base => exact decode_jmpWord (regBits base) 0#3 0#6
  | res => exact decode_resWord 0#12
  | lea dr off9 => exact decode_leaWord (regBits dr) off9
  | trap vect8 =>
    have unmapped : vect8 ∉ mappedVectors := by simpa [Instr.wf] using wf
    exact (decode_trapWord 0#4 vect8).trans (decodeTrap_of_unmapped unmapped)
  | getc => exact decode_trapWord 0#4 0x20#8
  | out => exact decode_trapWord 0#4 0x21#8
  | puts => exact decode_trapWord 0#4 0x22#8
  | inp => exact decode_trapWord 0#4 0x23#8
  | putsp => exact decode_trapWord 0#4 0x24#8
  | halt => exact decode_trapWord 0#4 0x25#8

/-! ### The rows of the opcode table (R52) -/

/-- What a row fixes beside the opcode number: the form bit, or the vector of a service. -/
def FormBits (i : Instr) (w : Word) : Prop :=
  match i with
  | .addReg _ _ _ | .andReg _ _ _ => bitField w 5 = false
  | .addImm _ _ _ | .andImm _ _ _ => bitField w 5 = true
  | .jsr _ => bitField w 11 = true
  | .jsrr _ => bitField w 11 = false
  | .getc => vect8Of w = 0x20#8
  | .out => vect8Of w = 0x21#8
  | .puts => vect8Of w = 0x22#8
  | .inp => vect8Of w = 0x23#8
  | .putsp => vect8Of w = 0x24#8
  | .halt => vect8Of w = 0x25#8
  | .br _ _ | .ld _ _ | .st _ _ | .ldi _ _ | .sti _ _ | .lea _ _ | .ldr _ _ _ | .str _ _ _
  | .notReg _ _ | .jmp _ | .rti | .res | .trap _ => True

/-- The Word has the opcode number and the form of the instruction's row. -/
def InRow (i : Instr) (w : Word) : Prop := opcodeOf w = opcodeNumber i ∧ FormBits i w

/-- The instruction's row with the operands the Word's bits give (R53, R55). -/
def readAs (i : Instr) (w : Word) : Instr :=
  match i with
  | .br _ _ => .br (condOfIr w) (off9Of w)
  | .addReg _ _ _ => .addReg (regField w 9) (regField w 6) (regField w 0)
  | .addImm _ _ _ => .addImm (regField w 9) (regField w 6) (imm5Of w)
  | .ld _ _ => .ld (regField w 9) (off9Of w)
  | .st _ _ => .st (regField w 9) (off9Of w)
  | .jsr _ => .jsr (off11Of w)
  | .jsrr _ => .jsrr (regField w 6)
  | .andReg _ _ _ => .andReg (regField w 9) (regField w 6) (regField w 0)
  | .andImm _ _ _ => .andImm (regField w 9) (regField w 6) (imm5Of w)
  | .ldr _ _ _ => .ldr (regField w 9) (regField w 6) (off6Of w)
  | .str _ _ _ => .str (regField w 9) (regField w 6) (off6Of w)
  | .notReg _ _ => .notReg (regField w 9) (regField w 6)
  | .ldi _ _ => .ldi (regField w 9) (off9Of w)
  | .sti _ _ => .sti (regField w 9) (off9Of w)
  | .jmp _ => .jmp (regField w 6)
  | .lea _ _ => .lea (regField w 9) (off9Of w)
  | .trap _ => .trap (vect8Of w)
  | .rti | .res | .getc | .out | .puts | .inp | .putsp | .halt => i

theorem rowOf_readAs (i : Instr) (w : Word) : rowOf (readAs i w) = rowOf i := by
  cases i <;> rfl

theorem append_eq_append_iff {m k : Nat} {a b : BitVec m} {x y : BitVec k} :
    a ++ x = b ++ y ↔ a = b ∧ x = y := by
  refine ⟨fun e => ⟨?_, ?_⟩, fun ⟨ea, ex⟩ => by rw [ea, ex]⟩
  · simpa [extract_high, extract_all] using congrArg (BitVec.extractLsb' k m) e
  · simpa [extract_low, extract_all] using congrArg (BitVec.extractLsb' 0 k) e

/-- A Word matches a row when all its 16 bits do. -/
theorem row_matches_iff (r : Row) (w : Word) :
    r.matches w = true ↔ w.extractLsb' 0 16 &&& r.mask = r.pattern := by
  rw [extract_all]
  exact beq_iff_eq

/-- A masked field is compared part by part. -/
theorem extract_and_eq_iff {n lo m k : Nat} (x : BitVec n) (a p : BitVec m) (b q : BitVec k) :
    x.extractLsb' lo (m + k) &&& (a ++ b) = p ++ q ↔
      x.extractLsb' (lo + k) m &&& a = p ∧ x.extractLsb' lo k &&& b = q := by
  rw [← BitVec.extractLsb'_append_extractLsb'_eq_extractLsb' rfl, BitVec.and_append,
    append_eq_append_iff]

theorem extract_bit (w : Word) (i : Nat) : w.extractLsb' i 1 = BitVec.ofBool (bitField w i) := by
  apply BitVec.eq_of_getLsbD_eq
  intro j hj
  obtain rfl : j = 0 := by omega
  simp [bitField]

section
variable (w : Word) (op : BitVec 4)

theorem matches_opcodeRow :
    (Row.mk 0xF000#16 (op ++ 0#12)).matches w = true ↔ opcodeOf w = op := by
  refine (row_matches_iff _ w).trans
    ((extract_and_eq_iff w (BitVec.allOnes 4) op 0#12 0#12).trans ?_)
  simp only [BitVec.and_allOnes, BitVec.and_zero, and_true]
  rfl

theorem matches_vectorRow (v : BitVec 8) :
    (Row.mk 0xF0FF#16 (op ++ (0#4 ++ v))).matches w = true ↔ opcodeOf w = op ∧ vect8Of w = v := by
  refine (row_matches_iff _ w).trans ((extract_and_eq_iff w (BitVec.allOnes 4) op
    (0#4 ++ BitVec.allOnes 8) (0#4 ++ v)).trans ?_)
  simp only [extract_and_eq_iff, BitVec.and_allOnes, BitVec.and_zero, true_and]
  rfl

theorem matches_bit11Row (b : Bool) :
    (Row.mk 0xF800#16 (op ++ (BitVec.ofBool b ++ 0#11))).matches w = true ↔
      opcodeOf w = op ∧ bitField w 11 = b := by
  refine (row_matches_iff _ w).trans ((extract_and_eq_iff w (BitVec.allOnes 4) op
    (BitVec.allOnes 1 ++ 0#11) (BitVec.ofBool b ++ 0#11)).trans ?_)
  simp only [extract_and_eq_iff, BitVec.and_allOnes, BitVec.and_zero, and_true, extract_bit,
    BitVec.ofBool_eq_iff_eq]
  rfl

theorem matches_bit5Row (b : Bool) :
    (Row.mk 0xF020#16 (op ++ (0#6 ++ (BitVec.ofBool b ++ 0#5)))).matches w = true ↔
      opcodeOf w = op ∧ bitField w 5 = b := by
  refine (row_matches_iff _ w).trans ((extract_and_eq_iff w (BitVec.allOnes 4) op
    (0#6 ++ (BitVec.allOnes 1 ++ 0#5)) (0#6 ++ (BitVec.ofBool b ++ 0#5))).trans ?_)
  simp only [extract_and_eq_iff, BitVec.and_allOnes, BitVec.and_zero, and_true, true_and,
    extract_bit, BitVec.ofBool_eq_iff_eq]
  rfl

end

/-- The table's masks and patterns say the opcode number and the form (R52). -/
theorem matches_rowOf_iff (i : Instr) (w : Word) : (rowOf i).matches w = true ↔ InRow i w := by
  have opcodeRow := matches_opcodeRow w (opcodeNumber i)
  cases i with
  | addReg => exact matches_bit5Row w 1#4 false
  | addImm => exact matches_bit5Row w 1#4 true
  | andReg => exact matches_bit5Row w 5#4 false
  | andImm => exact matches_bit5Row w 5#4 true
  | jsr => exact matches_bit11Row w 4#4 true
  | jsrr => exact matches_bit11Row w 4#4 false
  | getc => exact matches_vectorRow w 15#4 0x20#8
  | out => exact matches_vectorRow w 15#4 0x21#8
  | puts => exact matches_vectorRow w 15#4 0x22#8
  | inp => exact matches_vectorRow w 15#4 0x23#8
  | putsp => exact matches_vectorRow w 15#4 0x24#8
  | halt => exact matches_vectorRow w 15#4 0x25#8
  | br | ld | st | ldr | str | rti | notReg | ldi | sti | jmp | res | lea | trap =>
    simpa [rowOf, InRow, FormBits, opcodeNumber] using opcodeRow

/-! ### What a Word decodes to (R58) -/

/-- What the decoder owes a Word: a row the Word is in, its operands read from the Word's bits, and,
on the generic TRAP row, a vector that names no service. -/
structure DecodesTo (w : Word) (i : Instr) : Prop where
  row : InRow i w
  operands : readAs i w = i
  wf : i.wf = true

/-- What opcode 15 decodes to: a service on its vector's row, or the generic row (R130). -/
theorem decodesTo_decodeTrap {w : Word} (op : opcodeOf w = 15#4) :
    DecodesTo w (decodeTrap (vect8Of w)) := by
  unfold decodeTrap
  split_ifs with getc out puts inp putsp halt
  · exact ⟨⟨op, getc⟩, rfl, rfl⟩
  · exact ⟨⟨op, out⟩, rfl, rfl⟩
  · exact ⟨⟨op, puts⟩, rfl, rfl⟩
  · exact ⟨⟨op, inp⟩, rfl, rfl⟩
  · exact ⟨⟨op, putsp⟩, rfl, rfl⟩
  · exact ⟨⟨op, halt⟩, rfl, rfl⟩
  · exact ⟨⟨op, trivial⟩, rfl, by simp [Instr.wf, mappedVectors, *]⟩

/-- ADD, AND and opcode 4 have a form bit, opcode 15 has its vectors, and every other opcode number
has one row. -/
theorem decodesTo_decode (w : Word) : DecodesTo w (decode w) := by
  unfold decode
  split
  case h_2 op | h_5 op | h_6 op =>
    split
    next form => exact ⟨⟨BitVec.eq_of_toNat_eq op, form⟩, rfl, rfl⟩
    next form => exact ⟨⟨BitVec.eq_of_toNat_eq op, Bool.eq_false_iff.2 form⟩, rfl, rfl⟩
  case h_16 =>
    simp only [imp_false] at *
    exact decodesTo_decodeTrap (by bv_omega)
  -- The opcode numbers with one row.
  all_goals exact ⟨⟨BitVec.eq_of_toNat_eq ‹_›, trivial⟩, rfl, rfl⟩

/-- A Word in a row decodes to that row, unless it is the generic TRAP row beside a service's. -/
theorem decode_eq_readAs {i : Instr} {w : Word} (row : InRow i w) (wf : (readAs i w).wf = true) :
    decode w = readAs i w := by
  obtain ⟨op, form⟩ := row
  cases i with
  | addReg | andReg | addImm | andImm | jsr | jsrr =>
    simp [decode, readAs, op, opcodeNumber, show bitField w _ = _ from form]
  | getc | out | puts | inp | putsp | halt =>
    simp [decode, readAs, op, opcodeNumber, show vect8Of w = _ from form, decodeTrap]
  | trap =>
    have unmapped : vect8Of w ∉ mappedVectors := by simpa [readAs, Instr.wf] using wf
    simp [decode, readAs, op, opcodeNumber, decodeTrap_of_unmapped unmapped]
  | br | ld | st | ldi | sti | lea | ldr | str | rti | notReg | jmp | res =>
    simp [decode, op, opcodeNumber, readAs]

/-- Settles O17: well-formedness is part of what the decoder owes every Word. -/
theorem everyWordDecodesToAWellFormedInstruction :
    Obligations.EveryWordDecodesToAWellFormedInstruction :=
  fun w => (decodesTo_decode w).wf

/-- A row whose operands make no well-formed instruction is the generic TRAP row beside a
service's. -/
theorem eq_trap_of_not_wf_readAs {i : Instr} {w : Word} (h : ¬(readAs i w).wf = true) :
    (∃ v, i = .trap v) ∧ vect8Of w ∈ mappedVectors := by
  cases i with
  | trap v => exact ⟨⟨v, rfl⟩, by simpa [readAs, Instr.wf] using h⟩
  | _ => exact absurd rfl h

/-- Settles O16: a Word in a row decodes to that row, the generic TRAP row beside a service's
excepted. -/
theorem decodedWordMatchesItsTableRowAlone : Obligations.DecodedWordMatchesItsTableRowAlone := by
  intro w
  refine ⟨(matches_rowOf_iff _ w).2 (decodesTo_decode w).row, fun i matched => ?_⟩
  by_cases wf : (readAs i w).wf = true
  · have decoded := decode_eq_readAs ((matches_rowOf_iff i w).1 matched) wf
    exact .inl (by rw [decoded, rowOf_readAs])
  · obtain ⟨⟨v, rfl⟩, mapped⟩ := eq_trap_of_not_wf_readAs wf
    exact .inr ⟨rfl, mapped⟩

/-! ### The operands as numbers (R53 to R55) -/

theorem toNat_extract_eq_bitsNat (w : Word) (hi lo : Nat) :
    (w.extractLsb' lo (hi + 1 - lo)).toNat = bitsNat w hi lo := by
  simp [Nat.shiftRight_eq_div_pow]

theorem bitsNat_eq_toNat_bitField (w : Word) (i : Nat) : bitsNat w i i = (bitField w i).toNat := by
  have one : i + 1 - i = 1 := by omega
  rw [← toNat_extract_eq_bitsNat, one, extract_bit, BitVec.toNat_ofBool]

/-- The operands read from a Word's bits are its bit ranges, and a row's form bit or vector is
too. -/
theorem fieldsAt_readAs {i : Instr} {w : Word} (form : FormBits i w) : FieldsAt (readAs i w) w := by
  have field := toNat_extract_eq_bitsNat w
  have formBit {j : Nat} {b : Bool} (h : bitField w j = b) : b.toNat = bitsNat w j j :=
    (congrArg Bool.toNat h).symm.trans (bitsNat_eq_toNat_bitField w j).symm
  have vector {v : BitVec 8} (h : vect8Of w = v) : v.toNat = bitsNat w 7 0 :=
    (congrArg BitVec.toNat h).symm.trans (field 7 0)
  cases i with
  | br => exact ⟨field 11 9, field 8 0⟩
  | addReg | andReg => exact ⟨field 11 9, field 8 6, formBit form, field 2 0⟩
  | addImm | andImm => exact ⟨field 11 9, field 8 6, formBit form, field 4 0⟩
  | ld | ldi | lea | st | sti => exact ⟨field 11 9, field 8 0⟩
  | ldr | str => exact ⟨field 11 9, field 8 6, field 5 0⟩
  | notReg => exact ⟨field 11 9, field 8 6⟩
  | jmp => exact field 8 6
  | jsr => exact ⟨formBit form, field 10 0⟩
  | jsrr => exact ⟨formBit form, field 8 6⟩
  | trap => exact field 7 0
  | getc | out | puts | inp | putsp | halt => exact vector form
  | rti | res => trivial

/-- Settles O15: what a Word decodes to has the operands read from its bits. -/
theorem decodedOperandsAreTheWordsBits : Obligations.DecodedOperandsAreTheWordsBits := by
  intro w
  obtain ⟨⟨-, form⟩, operands, -⟩ := decodesTo_decode w
  exact operands ▸ fieldsAt_readAs form

end Sys2Proof.Machine
end

section
/-!
The step from its parts (R70): what a halted and a cancelled machine does, and a step in terms of
the memory read its fetch makes. A fetch from KBSR is the KBSR read, then RTI or a branch never
taken (R74).
-/
namespace Sys2Proof.Machine

section
variable {α : Type} {s : State}

/-! ### A machine that does not fetch -/

theorem step_of_halted {k : HaltKind} (halted : s.runState = .halted k) :
    step s = .fault (.alreadyHalted k) := by
  rw [step, halted]

theorem step_of_cancelled (running : s.runState = .running) (raised : s.cancelAfter = some 0) :
    step s = .next (s.raise .cancelled) := by
  rw [step, running]
  simp only [runCycle, sampleCancel, raised, Result.andThen_raised]

/-! ### The fetch's read -/

/-- The four answers of the input device to a KBSR read are all there are (R48, D22). -/
theorem keyboard_answers (s : State) :
    (∃ b rest, readyByte s = some (b, rest)) ∨ noKeyReady s = true ∨
      (∃ rest, s.input = .fails :: rest) ∨ ∃ rest, s.input = .readFails :: rest := by
  unfold readyByte noKeyReady
  split <;> simp_all

/-- The same end, with the request's count set to `c`. -/
def Result.recount (c : Option Nat) : Result α → Result α
  | .done v t => .done v (t.setCancel c)
  | .raised t => .raised (t.setCancel c)
  | .stuck f => .stuck f

/-- A memory read does not see the request. -/
theorem memRead_setCancel (a : Word) (s : State) (c : Option Nat) :
    memRead a (s.setCancel c) = (memRead a s).recount c := by
  by_cases address : a = kbsrAddr
  · subst address
    rcases keyboard_answers s with ⟨b, rest, key⟩ | key | ⟨rest, key⟩ | ⟨rest, key⟩
    · rw [memRead_kbsr_ready key, memRead_kbsr_ready (s := s.setCancel c) key]; rfl
    · rw [memRead_kbsr_none key, memRead_kbsr_none (s := s.setCancel c) key]; rfl
    · rw [memRead_kbsr_fails key, memRead_kbsr_fails (s := s.setCancel c) key]; rfl
    · rw [memRead_kbsr_readFails key, memRead_kbsr_readFails (s := s.setCancel c) key]; rfl
  · rw [memRead_ne address, memRead_ne address]; rfl

section
variable (running : s.runState = .running) (notCancelled : s.cancelAfter ≠ some 0)
include running notCancelled

/-- A step whose fetch's read returns runs the Word read, PC advanced (R70, R72). -/
theorem step_of_fetch_done {ir : Word} {s1 : State} (read : memRead s.pc s = .done ir s1) :
    step s = exec (decode ir) s1.advanced := by
  have io := (ioDone_of_memRead read).1
  rw [step_of_not_cancelled running notCancelled, fetch, State.setCancel_pc, memRead_setCancel,
    read, State.advanced, io.cancel]
  rfl

/-- A step whose fetch's read raises is over (R161). -/
theorem step_of_fetch_raised {t : State} (read : memRead s.pc s = .raised t) :
    step s = .next (t.setCancel (s.cancelAfter.map fun n => n - 1)) := by
  rw [step_of_not_cancelled running notCancelled, fetch, State.setCancel_pc, memRead_setCancel,
    read]
  rfl

theorem step_of_fetch_stuck {f : Fault} (read : memRead s.pc s = .stuck f) :
    step s = .fault f := by
  rw [step_of_not_cancelled running notCancelled, fetch, State.setCancel_pc, memRead_setCancel,
    read]
  rfl

end

end

/-- BR with no flag selected is never taken (R80). -/
theorem exec_br_never (off9 : BitVec 9) (s : State) : exec (.br 0#3 off9) s = .next s := by
  have unmet : condMet 0#3 s = false := by simp [condMet]
  rw [exec, execBr, unmet]
  rfl

/-- Settles O6: `State.advanced` is the state the statement writes out. -/
theorem stepRunsTheDecodedInstruction : Obligations.StepRunsTheDecodedInstruction :=
  fun _ running notCancelled plain => step_of_plain_fetch running notCancelled plain

/-- Settles O9: `step` looks at RunState first. -/
theorem haltedMachineTakesNoStep : Obligations.HaltedMachineTakesNoStep :=
  fun _ _ halted => step_of_halted halted

/-- Settles O7: the fetch is one of the four KBSR reads; 0x8000 decodes to RTI, 0x0000 to a branch
on no flag. -/
theorem fetchFromKbsrPollsTheKeyboard : Obligations.FetchFromKbsrPollsTheKeyboard := by
  intro s running notCancelled atKbsr
  have advanced : s.pc + 1#16 = kbsrAddr + 1#16 := congrArg (· + 1#16) atKbsr
  have fetched : memRead s.pc s = memRead kbsrAddr s := congrArg (memRead · s) atKbsr
  refine ⟨fun b rest key => ?_, fun key => ?_, fun rest key => ?_, fun rest key => ?_⟩
  · have read := fetched.trans (memRead_kbsr_ready key)
    have rti : decode kbsrReady = .rti := by decide
    refine ⟨(s.keyTaken b rest).advanced.raise .invalidOpcode, ?_, rfl, advanced,
      s.keyTaken_kbsr b rest, s.keyTaken_kbdr b rest, rfl, s.keyTaken_cells b rest,
      fun _ _ => rfl, rfl, rfl, rfl⟩
    rw [step_of_fetch_done running notCancelled read, rti]
    rfl
  · have read := fetched.trans (memRead_kbsr_none key)
    have never : decode 0x0000#16 = .br 0#3 0#9 := by decide
    refine ⟨s.noKey.advanced, ?_, running, advanced, s.noKey_kbsr, rfl, s.noKey_cells,
      fun _ _ => rfl, rfl, rfl, rfl⟩
    rw [step_of_fetch_done running notCancelled read, never, exec_br_never]
  · have read := fetched.trans (memRead_kbsr_fails key)
    exact ⟨_, step_of_fetch_raised running notCancelled read, rfl, atKbsr, fun _ _ => rfl,
      fun _ _ => rfl, rfl, rfl⟩
  · have read := fetched.trans (memRead_kbsr_readFails key)
    obtain ⟨status, cells, -⟩ := memoryWriteIsAPlainStore s kbsrAddr kbsrReady
    exact ⟨_, step_of_fetch_raised running notCancelled read, rfl, atKbsr, status, cells,
      fun _ _ => rfl, rfl, rfl⟩

end Sys2Proof.Machine
end

section
/-!
GETC and IN while no byte comes (R75, U6).
-/
namespace Sys2Proof.Machine

/-- A read that no byte ever answers waits in the state it starts from. -/
theorem inRead_never {s : State} {n : Nat} (h : s.input = afterWaits n []) :
    inRead s = .stuck (.awaitingInput s) := by
  rw [inRead, h, takeByte_afterWaits]
  rfl

theorem State.link_linkReg (s : State) : s.link.reg linkReg = s.pc :=
  (s.reg_link linkReg).trans (if_pos rfl)

theorem State.link_sameRegsBut (s : State) : SameRegsBut [linkReg] s s.link := by
  intro r hr
  have other : r ≠ linkReg := by simpa using hr
  simp [other]

/-- The link write and output leave what a TRAP has to leave (R130, R138). -/
theorem trapFrame_link_wrote (s : State) (bytes : List Byte) :
    TrapFrame [linkReg] [] s (s.link.wrote bytes) :=
  ⟨s.link_linkReg, s.link_sameRegsBut, fun _ _ => rfl, rfl, rfl, rfl⟩

/-- Settles O42: the wait begins after the link write in GETC, after the prompt too in IN. -/
theorem getcAndInWaitWithoutEndWhenNoByteComes :
    Obligations.GetcAndInWaitWithoutEndWhenNoByteComes := by
  intro s n noByte
  refine ⟨⟨s.link, ?_, s.link.wrote_nil ▸ trapFrame_link_wrote s [], rfl, rfl⟩, fun accepts =>
    ⟨s.link.wrote s.config.inPrompt, ?_, trapFrame_link_wrote s _, rfl, rfl⟩⟩
  · have waits : inRead s.link = .stuck (.awaitingInput s.link) := inRead_never noByte
    rw [exec, execGetc, getcService, waits]
    rfl
  · have prompt : outWriteAll s.link.config.inPrompt s.link =
        .done () (s.link.wrote s.config.inPrompt) := outWriteAll_accepted accepts
    have waits : inRead (s.link.wrote s.config.inPrompt) =
        .stuck (.awaitingInput (s.link.wrote s.config.inPrompt)) := inRead_never noByte
    rw [exec, execIn, inService, prompt, Result.bind_done, waits]
    rfl

end Sys2Proof.Machine
end

section
/-!
The causes of a terminal transition (R160 to R166, R177): which operation fails where HostIOError
ends an instruction, and which instruction makes each other kind.
-/
namespace Sys2Proof.Machine

variable {α : Type} {i : Instr} {s t : State}

/-! ### The device operation that fails -/

/-- Two facts about every end of one operation. -/
theorem Result.Ends.and {D E : α → State → Prop} {R Q : State → Prop} {r : Result α}
    (h : r.Ends D R) (k : r.Ends E Q) :
    r.Ends (fun v t => D v t ∧ E v t) (fun t => R t ∧ Q t) := by
  cases r with
  | done v t => exact ⟨h, k⟩
  | raised t => exact ⟨h, k⟩
  | stuck f => trivial

/-- The operation raises only in states of which `F` holds. -/
abbrev RaisesOnly (F : State → Prop) (r : Result α) : Prop := r.Ends (fun _ _ => True) F

theorem RaisesOnly.bind {β : Type} {F : State → Prop} {r : Result α} {k : α → State → Result β}
    (h : RaisesOnly F r) (hk : ∀ v t, RaisesOnly F (k v t)) : RaisesOnly F (r.bind k) :=
  Result.Ends.bind h (fun _ => id) fun v t _ => hk v t

theorem RaisesOnly.mono {F G : State → Prop} {r : Result α} (h : RaisesOnly F r)
    (hFG : ∀ t, F t → G t) : RaisesOnly G r :=
  Result.Ends.mono h (fun _ _ => id) hFG

/-- A script whose next answer is a failure, after moments without a byte. -/
theorem failing_of_takeByte {l : List InputEvent} (h : takeByte l = .fails) :
    ∃ n rest, l = afterWaits n (.fails :: rest) ∨ l = afterWaits n (.readFails :: rest) := by
  induction l with
  | nil => cases h
  | cons e rest ih =>
    cases e with
    | byte b => cases h
    | notYet =>
      obtain ⟨n, later, found⟩ := ih h
      have waited {r : List InputEvent} : rest = r → .notYet :: rest = .notYet :: r := congrArg _
      exact ⟨n + 1, later, found.imp waited waited⟩
    | fails => exact ⟨0, rest, .inl rfl⟩
    | readFails => exact ⟨0, rest, .inr rfl⟩
    | endless b => cases h

theorem inRead_raisesOnly (s : State) : RaisesOnly InputFailing (inRead s) := by
  unfold inRead
  split
  · trivial
  · rename_i fails
    exact failing_of_takeByte fails
  · trivial

theorem outWrite_raisesOnly (b : Byte) (s : State) :
    RaisesOnly (fun t => OutputFailing t ∧ t.output = s.output) (outWrite b s) := by
  unfold outWrite
  split
  · trivial
  · exact ⟨‹_›, rfl⟩
  · trivial

theorem outWriteAll_raisesOnly (bytes : List Byte) (s : State) :
    RaisesOnly OutputFailing (outWriteAll bytes s) := by
  induction bytes generalizing s with
  | nil => trivial
  | cons b rest ih =>
    exact ((outWrite_raisesOnly b s).mono fun _ h => h.1).bind fun _ t => ih t

/-- What a KBSR read that failed, from `s` to `t`, leaves (R177). -/
def KbsrFailure (s t : State) : Prop :=
  KbsrReadFailed s t ∧ t.output = s.output ∧ SameRegsBut [] s t ∧ SameCellsBut [kbsrAddr] s t

theorem KbsrFailure.inputFailing (h : KbsrFailure s t) : InputFailing t := by
  obtain ⟨⟨rest, next, -⟩ | ⟨rest, next, -⟩, -⟩ := h
  · exact ⟨0, rest, .inl next⟩
  · exact ⟨0, rest, .inr next⟩

theorem memRead_raisesOnly (a : Word) (s : State) : RaisesOnly (KbsrFailure s) (memRead a s) := by
  by_cases address : a = kbsrAddr
  · subst address
    rcases keyboard_answers s with ⟨b, rest, key⟩ | key | ⟨rest, key⟩ | ⟨rest, key⟩
    · rw [memRead_kbsr_ready key]; trivial
    · rw [memRead_kbsr_none key]; trivial
    · rw [memRead_kbsr_fails key]
      exact ⟨.inl ⟨rest, key, rfl⟩, rfl, fun _ _ => rfl, fun _ _ => rfl⟩
    · rw [memRead_kbsr_readFails key]
      obtain ⟨status, cells, -⟩ := memoryWriteIsAPlainStore s kbsrAddr kbsrReady
      exact ⟨.inr ⟨rest, key, status⟩, rfl, fun _ _ => rfl, cells⟩
  · rw [memRead_ne address]; trivial

/-- A read that raised is a failed KBSR read. -/
theorem kbsrFailure_of_memRead {a : Word} (read : memRead a s = .raised t) :
    IoRaised s t ∧ a = kbsrAddr ∧ KbsrFailure s t := by
  have address : a = kbsrAddr := by
    by_contra plain
    cases (memRead_ne plain s).symm.trans read
  have ends := (memRead_io a s).and (memRead_raisesOnly a s)
  rw [read] at ends
  exact ⟨ends.1, address, ends.2⟩

theorem output_of_memRead {a v : Word} (read : memRead a s = .done v t) :
    t.output = s.output := by
  have ends := memRead_leaves_output a s
  rwa [read] at ends

/-- A KBSR read returns 0x8000 or 0x0000, neither of them KBSR's address (D3, D4). -/
theorem memRead_kbsr_value_ne {v : Word} (read : memRead kbsrAddr s = .done v t) :
    v ≠ kbsrAddr := by
  rcases keyboard_answers s with ⟨b, rest, key⟩ | key | ⟨rest, key⟩ | ⟨rest, key⟩
  · rw [memRead_kbsr_ready key] at read; cases read; decide
  · rw [memRead_kbsr_none key] at read; cases read; decide
  · rw [memRead_kbsr_fails key] at read; cases read
  · rw [memRead_kbsr_readFails key] at read; cases read

theorem walkString_raisesOnly (bytesOf : Word → List Byte) (n : Nat) (a : Word) (s : State) :
    RaisesOnly (fun t => InputFailing t ∨ OutputFailing t) (walkString bytesOf n a s) := by
  induction n generalizing a s with
  | zero => trivial
  | succ n ih =>
    refine ((memRead_raisesOnly a s).mono fun _ h => .inl h.inputFailing).bind fun w t => ?_
    split
    · trivial
    · exact ((outWriteAll_raisesOnly _ t).mono fun _ => .inr).bind fun _ u => ih _ u

/-! ### Instructions whose only terminal transition is a device's failure -/

/-- RunState is as it was, or a device failed and `F` says which. -/
inductive OnlyFailsBy (F : State → Prop) (s t : State) : Prop
  | completed (same : t.runState = s.runState)
  | failed (io : IoEffect s t) (halted : t.runState = .halted .hostIOError) (cause : F t)

section
variable {F : State → Prop} {r : Result α}

theorem OnlyFailsBy.after {u : State} (io : IoDone s t) (h : OnlyFailsBy F t u) :
    OnlyFailsBy F s u := by
  obtain ⟨effect, running⟩ := io
  cases h with
  | completed same => exact .completed (same.trans running)
  | failed io' halted cause => exact .failed (effect.trans io') halted cause

/-- The device operations and reads before the last part of an instruction. -/
theorem IoOp.andThen_onlyFailsBy {k : α → State → Host.Outcome State Fault Refusal}
    (io : IoOp s r) (raises : RaisesOnly F r)
    (hk : ∀ v t, r = .done v t → NextAll (OnlyFailsBy F t) (k v t)) :
    NextAll (OnlyFailsBy F s) (r.andThen k) := by
  cases r with
  | done v t => exact (hk v t rfl).mono fun _ => .after io.1
  | raised t => exact .failed io.1 io.2.1 raises
  | stuck f => trivial

/-- Every end of a service, be it by raising or not. -/
abbrev ServiceOnlyFailsBy (F : State → Prop) (s : State) (r : Result Unit) : Prop :=
  r.Ends (fun _ => OnlyFailsBy F s) (OnlyFailsBy F s)

theorem IoOp.bind_onlyFailsBy {k : α → State → Result Unit} (io : IoOp s r)
    (raises : RaisesOnly F r) (hk : ∀ v t, ServiceOnlyFailsBy F t (k v t)) :
    ServiceOnlyFailsBy F s (r.bind k) :=
  Result.Ends.bind (io.and raises) (fun _ ⟨⟨effect, halted, _⟩, cause⟩ =>
    .failed effect halted cause) fun v t ⟨⟨done, _⟩, _⟩ =>
      (hk v t).mono (fun _ _ => .after done) fun _ => .after done

theorem IoOp.onlyFailsBy {r : Result Unit} (io : IoOp s r) (raises : RaisesOnly F r) :
    ServiceOnlyFailsBy F s r :=
  (io.and raises).mono (fun _ _ ⟨⟨done, _⟩, _⟩ => .completed done.2)
    fun _ ⟨⟨effect, halted, _⟩, cause⟩ => .failed effect halted cause

theorem ServiceOnlyFailsBy.outcome {r : Result Unit} (h : ServiceOnlyFailsBy F s r) :
    NextAll (OnlyFailsBy F s) r.outcome :=
  Result.Ends.outcome h (fun _ => id) fun _ => id

end

theorem memRead_define_onlyFailsBy (a : Word) (dr : Reg) (s : State) :
    NextAll (OnlyFailsBy (KbsrFailure s) s)
      ((memRead a s).andThen fun v t => .next (t.define dr v)) :=
  (memRead_io a s).andThen_onlyFailsBy (memRead_raisesOnly a s) fun _ _ _ => .completed rfl

theorem execSti_onlyFailsBy (sr : Reg) (off9 : BitVec 9) (s : State) :
    NextAll (OnlyFailsBy (KbsrFailure s) s) (execSti sr off9 s) :=
  (memRead_io _ s).andThen_onlyFailsBy (memRead_raisesOnly _ s) fun _ _ _ => .completed rfl

/-- Of LDI's two reads one at most is of KBSR. -/
theorem execLdi_onlyFailsBy (dr : Reg) (off9 : BitVec 9) (s : State) :
    NextAll (OnlyFailsBy (KbsrFailure s) s) (execLdi dr off9 s) := by
  by_cases pointerCell : pcRel9 s off9 = kbsrAddr
  · refine (memRead_io _ s).andThen_onlyFailsBy (memRead_raisesOnly _ s) fun p t read => ?_
    rw [memRead_ne (memRead_kbsr_value_ne (pointerCell ▸ read))]
    exact .completed rfl
  · rw [execLdi, memRead_ne pointerCell]
    exact memRead_define_onlyFailsBy _ dr s

theorem getcService_onlyFailsBy (s : State) : ServiceOnlyFailsBy InputFailing s (getcService s) :=
  (inRead_io s).bind_onlyFailsBy (inRead_raisesOnly s) fun _ _ => .completed rfl

theorem inService_onlyFailsBy (s : State) :
    ServiceOnlyFailsBy (fun t => InputFailing t ∨ OutputFailing t) s (inService s) :=
  (outWriteAll_io _ s).bind_onlyFailsBy ((outWriteAll_raisesOnly _ s).mono fun _ => .inr)
    fun _ s1 => (inRead_io s1).bind_onlyFailsBy ((inRead_raisesOnly s1).mono fun _ => .inl)
      fun b s2 => (outWrite_io b s2).bind_onlyFailsBy
        ((outWrite_raisesOnly b s2).mono fun _ h => .inr h.1) fun _ _ => .completed rfl

/-! ### The cause of each kind -/

/-- Which of the instruction's device operations failed, with what is particular to it. -/
def FailureCause (i : Instr) (s t : State) : Prop :=
  match i with
  | .ld _ _ | .ldi _ _ | .ldr _ _ _ | .sti _ _ => KbsrFailure s t
  | .getc => InputFailing t
  | .out => OutputFailing t ∧ t.output = s.output
  | .halt => OutputFailing t
  | .inp | .puts | .putsp => InputFailing t ∨ OutputFailing t
  | .br _ _ | .addReg _ _ _ | .addImm _ _ _ | .st _ _ | .jsr _ | .jsrr _ | .andReg _ _ _
  | .andImm _ _ _ | .str _ _ _ | .rti | .notReg _ _ | .jmp _ | .res | .lea _ _ | .trap _ => False

/-- How an instruction run from `s` makes the terminal transition `k` and ends in `t` (R161 to
R165). -/
def HaltCause (i : Instr) (s t : State) : HaltKind → Prop
  | .cancelled => False
  | .haltRequested => i = .halt ∧ t = (s.link.wrote s.config.haltNotice).raise .haltRequested
  | .invalidOpcode => (i = .rti ∨ i = .res) ∧ t = s.raise .invalidOpcode
  | .invalidTrapVector =>
    ∃ vect8, i = .trap vect8 ∧ vect8 ∉ mappedVectors ∧ t = s.link.raise .invalidTrapVector
  | .hostIOError => IoEffect (s.begun i) t ∧ FailureCause i s t

/-- If `t` is terminal, its kind has its cause. -/
abbrev HaltsByCause (i : Instr) (s t : State) : Prop :=
  ∀ k, t.runState = .halted k → HaltCause i s t k

theorem HaltsByCause.of_running (h : t.runState = .running) : HaltsByCause i s t :=
  fun _ halted => nomatch h.symm.trans halted

theorem HaltsByCause.of_kind {k : HaltKind} (h : t.runState = .halted k)
    (cause : HaltCause i s t k) : HaltsByCause i s t := by
  intro k' halted
  obtain rfl : k = k' := RunState.halted.inj (h.symm.trans halted)
  exact cause

theorem OnlyFailsBy.haltsByCause (running : s.runState = .running)
    (h : OnlyFailsBy (FailureCause i s) (s.begun i) t) : HaltsByCause i s t := by
  cases h with
  | completed same => exact .of_running (same.trans ((s.begun_runState i).trans running))
  | failed io halted cause => exact .of_kind halted ⟨io, cause⟩

/-- A device takes all the bytes, or fails. -/
theorem outWriteAll_ends (bytes : List Byte) (s : State) :
    (outWriteAll bytes s).Ends (fun _ t => t = s.wrote bytes)
      (fun t => IoRaised s t ∧ OutputFailing t) := by
  by_cases accepts : acceptsOutput s bytes.length = true
  · rw [outWriteAll_accepted accepts]
    rfl
  · rcases outWriteAll_of_not_accepted (n := 0) (by simpa using accepts) with ⟨k, e⟩ | ⟨-, no⟩
    · have ends := (outWriteAll_io bytes s).and (outWriteAll_raisesOnly bytes s)
      rw [e] at ends ⊢
      exact ends
    · rw [acceptsOutput_zero] at no
      cases no

theorem execHalt_haltsByCause (s : State) :
    NextAll (HaltsByCause .halt s) (execHalt s) := by
  refine Result.Ends.outcome (D := fun _ _ => False) (R := HaltsByCause .halt s)
    (Result.Ends.bind (outWriteAll_ends _ s.link) ?_ ?_) (fun _ => False.elim) fun _ => id
  · rintro t ⟨⟨io, halted, -⟩, fails⟩
    exact .of_kind halted ⟨io, fails⟩
  · rintro _ t rfl
    exact HaltsByCause.of_kind (k := .haltRequested) rfl ⟨rfl, rfl⟩

theorem trapDispatch_of_unmapped {vect8 : BitVec 8} (h : vect8 ∉ mappedVectors) (s : State) :
    trapDispatch vect8 s = .raised (s.raise .invalidTrapVector) := by
  simp only [mappedVectors, List.mem_cons, List.not_mem_nil, or_false, not_or] at h
  simp [trapDispatch, h]

theorem execTrap_haltsByCause {vect8 : BitVec 8} (h : vect8 ∉ mappedVectors) (s : State) :
    NextAll (HaltsByCause (.trap vect8) s) (execTrap vect8 s) := by
  rw [execTrap, trapDispatch_of_unmapped h]
  exact HaltsByCause.of_kind (k := .invalidTrapVector) rfl ⟨vect8, rfl, h, rfl⟩

/-- What a running machine's instruction can halt by, said once for all that the decoder gives. -/
theorem exec_haltsByCause (running : s.runState = .running) (wf : i.wf = true) :
    NextAll (HaltsByCause i s) (exec i s) := by
  have failing {i : Instr} {o : Host.Outcome State Fault Refusal}
      (h : NextAll (OnlyFailsBy (FailureCause i s) (s.begun i)) o) :
      NextAll (HaltsByCause i s) o := h.mono fun _ => OnlyFailsBy.haltsByCause running
  cases i with
  | br cond off9 =>
    exact (execBr_leaves State.setPc_runState cond off9 s).mono fun _ same =>
      .of_running (same.trans running)
  | addReg | addImm | andReg | andImm | notReg | lea => exact .of_running running
  | st | str | jmp | jsr | jsrr => exact .of_running running
  | ld dr off9 => exact failing (i := .ld dr off9) (memRead_define_onlyFailsBy _ dr s)
  | ldr dr base off6 => exact failing (i := .ldr dr base off6) (memRead_define_onlyFailsBy _ dr s)
  | ldi dr off9 => exact failing (i := .ldi dr off9) (execLdi_onlyFailsBy dr off9 s)
  | sti sr off9 => exact failing (i := .sti sr off9) (execSti_onlyFailsBy sr off9 s)
  | rti => exact HaltsByCause.of_kind (k := .invalidOpcode) rfl ⟨.inl rfl, rfl⟩
  | res => exact HaltsByCause.of_kind (k := .invalidOpcode) rfl ⟨.inr rfl, rfl⟩
  | trap vect8 => exact execTrap_haltsByCause (by simpa [Instr.wf] using wf) s
  | getc => exact failing (i := .getc) (getcService_onlyFailsBy s.link).outcome
  | out =>
    exact failing (i := .out)
      ((outWrite_io _ s.link).onlyFailsBy (outWrite_raisesOnly _ s.link)).outcome
  | puts =>
    exact failing (i := .puts)
      ((walkString_io _ _ _ s.link).onlyFailsBy (walkString_raisesOnly _ _ _ s.link)).outcome
  | inp => exact failing (i := .inp) (inService_onlyFailsBy s.link).outcome
  | putsp =>
    exact failing (i := .putsp)
      ((walkString_io _ _ _ s.link).onlyFailsBy (walkString_raisesOnly _ _ _ s.link)).outcome
  | halt => exact execHalt_haltsByCause s

/-! ### What the kind leaves (R177) -/

/-- An instruction that ends by a device's failure leaves what its cause says. -/
theorem deviceFailed_of_cause (e : exec i s = .next t) (io : IoEffect (s.begun i) t)
    (cause : FailureCause i s t) : DeviceFailed i s t := by
  have output : s.output <+: t.output := s.begun_output i ▸ io.output
  have regs : SameRegsBut [linkReg] s t := fun r hr =>
    (io.reg r).trans (State.begun_reg fun _ => by simpa using hr)
  have cells (noStore : isStore i = false) (plain : readsAvoidKbsr i s) : SameCellsBut [] s t :=
    fun a _ => congrArg (Memory.read · a.toNat) ((exec_leaves_mem noStore plain).next e)
  cases i with
  | ld | ldi | ldr | sti => exact cause
  | getc => exact ⟨cause, (exec_leaves_output (.inr rfl) s).next e, regs, cells rfl trivial⟩
  | out => exact ⟨cause.1, cause.2, regs, cells rfl trivial⟩
  | halt | inp => exact ⟨cause, output, regs, cells rfl trivial⟩
  | puts | putsp => exact ⟨cause, output, regs, io.cells⟩
  | br | addReg | addImm | st | jsr | jsrr | andReg | andImm | str | rti | notReg | jmp | res
  | lea | trap => exact cause.elim

/-- A service's link write stands at its end if a device failed. -/
theorem IoEffect.linkReg_of_isService (io : IoEffect (s.begun i) t) (h : isService i = true) :
    t.reg linkReg = s.pc := by
  have links : linksPc i = true := by cases i <;> simp_all [isService, linksPc]
  rw [io.reg, State.begun, if_pos links, s.link_linkReg]

/-- Settles O11: a cancelled step is the transition alone, a fetch that raises is a failed KBSR
read, and what is fetched ends by its own cause. -/
theorem eachHaltKindHasItsCause : Obligations.EachHaltKindHasItsCause := by
  intro s t k running e halted
  by_cases raised : s.cancelAfter = some 0
  · rw [step_of_cancelled running raised] at e
    cases e
    cases halted
    exact ⟨raised, rfl⟩
  cases read : memRead s.pc s with
  | stuck f =>
    rw [step_of_fetch_stuck running raised read] at e
    cases e
  | raised u =>
    obtain ⟨⟨io, kind, -⟩, atKbsr, failed, output, regs, cells⟩ := kbsrFailure_of_memRead read
    rw [step_of_fetch_raised running raised read] at e
    cases e
    cases kind.symm.trans halted
    exact ⟨raised, io.cond, .inl ⟨atKbsr, failed, io.pc, output, regs, cells⟩⟩
  | done ir s1 =>
    obtain ⟨io, same⟩ := ioDone_of_memRead read
    have output : s1.output = s.output := output_of_memRead read
    rw [step_of_fetch_done running raised read] at e
    have pc : s1.advanced.pc = s.pc + 1#16 := congrArg (· + 1#16) io.pc
    have link : s1.advanced.link.reg linkReg = s.pc + 1#16 := s1.advanced.link_linkReg.trans pc
    have regs : SameRegsBut [linkReg] s s1.advanced.link := fun r hr =>
      (s1.advanced.link_sameRegsBut r hr).trans (io.reg r)
    have cause := (exec_haltsByCause (i := decode ir) (s := s1.advanced) (same.trans running)
      (everyWordDecodesToAWellFormedInstruction ir)).next e k halted
    cases k with
    | cancelled => exact cause.elim
    | haltRequested =>
      obtain ⟨isHalt, rfl⟩ := cause
      have notice : s1.output ++ s1.config.haltNotice = s.output ++ s.config.haltNotice := by
        rw [output, io.config]
      exact ⟨raised, ir, s1, rfl, isHalt, notice, pc, link, regs, io.cond, rfl, rfl⟩
    | invalidOpcode =>
      obtain ⟨reserved, rfl⟩ := cause
      exact ⟨raised, ir, s1, rfl, reserved, output, pc, fun r _ => io.reg r, io.cond, rfl, rfl⟩
    | invalidTrapVector =>
      obtain ⟨vect8, isTrap, unmapped, rfl⟩ := cause
      exact ⟨raised, ir, s1, vect8, rfl, isTrap, unmapped, output, pc, link, regs, io.cond, rfl,
        rfl⟩
    | hostIOError =>
      obtain ⟨effect, failure⟩ := cause
      have cond : t.cond = s.cond := effect.cond.trans ((State.begun_cond _ _).trans io.cond)
      have failed : DeviceFailed (decode ir) s1.advanced t := deviceFailed_of_cause e effect failure
      exact ⟨raised, cond, .inr ⟨ir, s1, rfl, failed,
        effect.pc.trans ((State.begun_pc _ _).trans pc), fun service =>
          (effect.linkReg_of_isService service).trans pc⟩⟩

end Sys2Proof.Machine
end

section
/-!
BR (R80): which fields meet which flag, and the jump; and the spec's example Words, by the formats
they are drawn in.
-/
namespace Sys2Proof.Machine

variable {cond : BitVec 3} {s : State}

/-! ### The branch test -/

/-- Where COND holds a single bit, the test reads that bit of the field. -/
theorem condMet_iff_getLsbD {i : Nat} (flag : s.cond = BitVec.twoPow 16 i) (hi : i < 16) :
    condMet cond s = true ↔ cond.getLsbD i = true := by
  have bit : BitVec.twoPow 16 i ≠ 0x0000#16 := fun zero => by
    simpa [hi] using congrArg (·.getLsbD i) zero
  rw [condMet_iff, flag, BitVec.and_twoPow, BitVec.getLsbD_setWidth]
  cases cond.getLsbD i <;> simp [hi, bit]

/-- The three flags are the bits 0, 1 and 2, in the order p, z, n (D2). -/
theorem flags_eq_twoPow :
    flagPos = BitVec.twoPow 16 0 ∧ flagZero = BitVec.twoPow 16 1 ∧
      flagNeg = BitVec.twoPow 16 2 := by decide

/-- R80's table: under a legal COND the test asks whether the flag held is among those named. -/
theorem condMet_iff_of_condLegal (legal : s.condLegal) :
    condMet cond s = true ↔
      (cond.getLsbD 2 = true ∧ s.cond = flagNeg) ∨ (cond.getLsbD 1 = true ∧ s.cond = flagZero) ∨
        (cond.getLsbD 0 = true ∧ s.cond = flagPos) := by
  obtain ⟨pos, zero, neg⟩ := flags_eq_twoPow
  rcases legal with flag | flag | flag
  · rw [condMet_iff_getLsbD (flag.trans pos) (by decide), flag]
    simp [flagPos, flagZero, flagNeg]
  · rw [condMet_iff_getLsbD (flag.trans zero) (by decide), flag]
    simp [flagPos, flagZero, flagNeg]
  · rw [condMet_iff_getLsbD (flag.trans neg) (by decide), flag]
    simp [flagPos, flagZero, flagNeg]

/-! ### The jump -/

/-- Writing PC changes nothing else. -/
theorem jumpsOnly_setPc (s : State) (v : Word) : JumpsOnly [] s (s.setPc v) :=
  ⟨fun _ _ => rfl, rfl, fun _ _ => rfl, ⟨rfl, rfl, rfl⟩, rfl, rfl, rfl⟩

/-- BR taken or not is one write of PC: not taken, PC is written with what it holds. -/
theorem exec_br (cond : BitVec 3) (off9 : BitVec 9) (s : State) :
    exec (.br cond off9) s =
      .next (s.setPc (if condMet cond s = true then pcRel9 s off9 else s.pc)) := by
  rw [exec, execBr]
  split <;> rfl

/-- Settles O35: the end of BR is its one write of PC, and the test is R80's, said in two ways. -/
theorem branchAddsTheOffsetWhenAFlagIsMet : Obligations.BranchAddsTheOffsetWhenAFlagIsMet :=
  fun s cond off9 =>
    ⟨_, exec_br cond off9 s, jumpsOnly_setPc s _, if_congr (condMet_iff cond s) rfl rfl,
      fun legal => if_congr (condMet_iff_of_condLegal legal) rfl rfl⟩

/-! ### The spec's example Words -/

/-- Settles O18: each Word is written as the fields of its format, the ignored bits of 0x1419, 0x46BF,
0xF120, 0x8FFF and 0xDFFF among them. -/
theorem exampleWordsDecodeToTheirInstructions :
    Obligations.ExampleWordsDecodeToTheirInstructions :=
  ⟨decode_brWord 0b010#3 3#9, decode_addImmWord 0b000#3 0b001#3 1#5,
    decode_addRegWord 0b010#3 0b000#3 0b001#3 0b11#2, decode_ldrWord 0b100#3 0b110#3 0b111110#6,
    decode_stiWord 0b001#3 2#9, decode_jmpWord 0b111#3 0b000#3 0b000000#6, decode_jsrWord 4#11,
    decode_jsrrWord 0b010#3 0b11#2 0b111111#6, decode_leaWord 0b000#3 2#9,
    decode_trapWord 0b0001#4 0x20#8,
    (decode_trapWord 0b0000#4 0x26#8).trans (decodeTrap_of_unmapped (by decide)),
    decode_rtiWord 0xFFF#12, decode_resWord 0xFFF#12⟩

end Sys2Proof.Machine
end

section
/-!
ADD, AND and NOT (R85 to R89): each defines one Word, which the statements give as an integer sum
modulo 65536, bit by bit, or as a difference from 65535.
-/
namespace Sys2Proof.Machine

/-- O15's law, for a Word whose instruction is known (R53, R55). -/
theorem fieldsAt_of_decode {i : Instr} (w : Word) (h : decode w = i) : FieldsAt i w :=
  h ▸ decodedOperandsAreTheWordsBits w

/-! ### The Words defined -/

/-- A Word plus a sign-extended operand, as the signed numbers they stand for (R201, R203). -/
theorem add_sext_eq_ofInt {k : Nat} (hk : k ≤ 16) (a : Word) (x : BitVec k) :
    a + sext x = BitVec.ofInt 16 (a.toInt + x.toInt) := by
  rw [BitVec.ofInt_add, BitVec.ofInt_toInt, ← toInt_sext hk x, BitVec.ofInt_toInt]

/-- Bits 15 to 4 of the immediate operand are the immediate's bit 4 (R55, R203). -/
theorem getLsbD_immOperand (imm5 : BitVec 5) {i : Nat} (hi : i < 16) :
    (immOperand imm5).getLsbD i = imm5.getLsbD (min i 4) := by
  rw [immOperand, sext, BitVec.getLsbD_signExtend, BitVec.msb_eq_getLsbD_last]
  split
  next low => simp [hi, Nat.min_eq_left (Nat.le_of_lt_succ low)]
  next high => simp [hi, Nat.min_eq_right (show 4 ≤ i by omega)]

/-- `~w = 65535 - w` (R89). -/
theorem not_eq_ofNat (w : Word) : ~~~w = BitVec.ofNat 16 (65535 - w.toNat) :=
  BitVec.eq_of_toNat_eq (by simp; omega)

/-! ### The instructions -/

/-- R85, with R201's sum. -/
theorem exec_addReg (dr sr1 sr2 : Reg) (s : State) :
    exec (.addReg dr sr1 sr2) s =
      .next (s.define dr (BitVec.ofNat 16 ((s.reg sr1).toNat + (s.reg sr2).toNat))) := by
  rw [exec, execAddReg, BitVec.add_def]

/-- R86, the immediate a number from -16 to 15. -/
theorem exec_addImm (dr sr1 : Reg) (imm5 : BitVec 5) (s : State) :
    exec (.addImm dr sr1 imm5) s =
      .next (s.define dr (BitVec.ofInt 16 ((s.reg sr1).toInt + imm5.toInt))) := by
  rw [exec, execAddImm, immOperand, add_sext_eq_ofInt (by decide)]

theorem exec_andReg (dr sr1 sr2 : Reg) (s : State) :
    exec (.andReg dr sr1 sr2) s = .next (s.define dr (s.reg sr1 &&& s.reg sr2)) := rfl

theorem exec_andImm (dr sr1 : Reg) (imm5 : BitVec 5) (s : State) :
    exec (.andImm dr sr1 imm5) s = .next (s.define dr (s.reg sr1 &&& immOperand imm5)) := rfl

/-- R89, by the complement's formula. -/
theorem exec_notReg (dr sr : Reg) (s : State) :
    exec (.notReg dr sr) s = .next (s.define dr (BitVec.ofNat 16 (65535 - (s.reg sr).toNat))) := by
  rw [exec, execNot, not_eq_ofNat]

/-- Settles O25: each form is one definition, of R201's sum. -/
theorem addDefinesTheWrappingSum : Obligations.AddDefinesTheWrappingSum :=
  fun s dr sr1 sr2 imm5 =>
    ⟨plain_load (exec_addReg dr sr1 sr2 s), plain_load (exec_addImm dr sr1 imm5 s),
      fieldsAt_of_decode, fieldsAt_of_decode⟩

/-- Settles O26: each form is one definition, of a Word AND, which is then read bit by bit. -/
theorem andDefinesTheBitwiseAnd : Obligations.AndDefinesTheBitwiseAnd := by
  intro s dr sr1 sr2 imm5
  refine ⟨?_, ?_, fieldsAt_of_decode, fieldsAt_of_decode⟩
  · obtain ⟨t, ends, devices, defines⟩ := plain_load (exec_andReg dr sr1 sr2 s)
    exact ⟨t, _, ends, devices, defines, fun i _ => BitVec.getLsbD_and⟩
  · obtain ⟨t, ends, devices, defines⟩ := plain_load (exec_andImm dr sr1 imm5 s)
    refine ⟨t, _, ends, devices, defines, fun i hi => ?_⟩
    rw [BitVec.getLsbD_and, getLsbD_immOperand imm5 hi]

/-- Settles O27: NOT is one definition, of the difference from 65535. -/
theorem notDefinesTheComplement : Obligations.NotDefinesTheComplement :=
  fun s dr sr => ⟨plain_load (exec_notReg dr sr s), fieldsAt_of_decode⟩

end Sys2Proof.Machine
end

section
/-!
LD and LDI (R95, R96) by what their reads return or raise, of whatever cell.
-/
namespace Sys2Proof.Machine

section
variable {s u : State} {off9 : BitVec 9} (dr : Reg)

theorem exec_ld_of_read {v : Word} (read : memRead (pcRel9 s off9) s = .done v u) :
    exec (.ld dr off9) s = .next (u.define dr v) := by
  rw [exec, execLd, read, Result.andThen_done]

/-- LDI past its pointer read is one read, at the pointer, in the state the first read left. -/
theorem exec_ldi_of_pointer_read {p : Word} (read : memRead (pcRel9 s off9) s = .done p u) :
    exec (.ldi dr off9) s = (memRead p u).andThen fun v t => .next (t.define dr v) := by
  rw [exec, execLdi, read, Result.andThen_done]

/-- A first read that raises ends LD and LDI: nothing is defined, no second read is made (R161). -/
theorem exec_ld_and_ldi_of_raised_read (read : memRead (pcRel9 s off9) s = .raised u) :
    exec (.ld dr off9) s = .next u ∧ exec (.ldi dr off9) s = .next u := by
  constructor
  · rw [exec, execLd, read, Result.andThen_raised]
  · rw [exec, execLdi, read, Result.andThen_raised]

end

/-- Settles O29: after its reads a load is one definition, and a read that raises is its end. -/
theorem ldAndLdiDefineWhatTheirReadsReturn :
    Obligations.LdAndLdiDefineWhatTheirReadsReturn := by
  intro s dr off9
  refine ⟨fun v u read => ⟨?_, fun v2 u2 second => ?_, fun u2 second => ?_⟩,
    fun u => exec_ld_and_ldi_of_raised_read dr, fieldsAt_of_decode, fieldsAt_of_decode⟩
  · exact plain_load (exec_ld_of_read dr read)
  · apply plain_load
    rw [exec_ldi_of_pointer_read dr read, second, Result.andThen_done]
  · rw [exec_ldi_of_pointer_read dr read, second, Result.andThen_raised]

end Sys2Proof.Machine
end

section
/-!
ST, STR and STI (R105 to R107): each is one plain store, of which R33 says the rest.
-/
namespace Sys2Proof.Machine

/-- An instruction that comes to one store stores one Word and changes nothing else (R33). -/
theorem plain_store {s : State} {o : Host.Outcome State Fault Refusal} {a v : Word}
    (h : o = .next (s.store a v)) : ∃ t, o = .next t ∧ StoresOnly a v s t :=
  ⟨_, h, memoryWriteIsAPlainStore s a v⟩

theorem exec_st (sr : Reg) (off9 : BitVec 9) (s : State) :
    exec (.st sr off9) s = .next (s.store (pcRel9 s off9) (s.reg sr)) := rfl

theorem exec_str (sr base : Reg) (off6 : BitVec 6) (s : State) :
    exec (.str sr base off6) s = .next (s.store (baseOff6 s base off6) (s.reg sr)) := rfl

/-- STI with its pointer cell away from KBSR is one store, at the address in that cell. -/
theorem exec_sti_of_plain_pointer {s : State} {off9 : BitVec 9} (sr : Reg)
    (plain : pcRel9 s off9 ≠ kbsrAddr) :
    exec (.sti sr off9) s = .next (s.store (s.cell (pcRel9 s off9)) (s.reg sr)) :=
  memRead_andThen_of_plain plain _

/-- Settles O33: each form is one store, which asks nothing of its address. -/
theorem storesWriteExactlyTheirCell : Obligations.StoresWriteExactlyTheirCell :=
  fun s sr base off9 off6 =>
    ⟨plain_store (exec_st sr off9 s), plain_store (exec_str sr base off6 s),
      fieldsAt_of_decode, fieldsAt_of_decode⟩

/-- Settles O34: the pointer read has no side effect, and what follows it is one store. -/
theorem stiStoresThroughItsPointer : Obligations.StiStoresThroughItsPointer :=
  fun _ sr _ plain => plain_store (exec_sti_of_plain_pointer sr plain)

end Sys2Proof.Machine
end

section
/-!
JMP and JSR (R115, R116): a jump is one write of PC, JSR's after its link write.
-/
namespace Sys2Proof.Machine

/-- The link write and a jump change R7 and PC only (R17, R116). -/
theorem jumpsOnly_link_setPc (s : State) (v : Word) : JumpsOnly [linkReg] s (s.link.setPc v) :=
  ⟨s.link_sameRegsBut, rfl, fun _ _ => rfl, ⟨rfl, rfl, rfl⟩, rfl, rfl, rfl⟩

theorem exec_jmp (base : Reg) (s : State) :
    exec (.jmp base) s = .next (s.setPc (s.reg base)) := rfl

/-- JSR's target is of the PC before the link write, which does not move PC. -/
theorem exec_jsr (off11 : BitVec 11) (s : State) :
    exec (.jsr off11) s = .next (s.link.setPc (pcRel11 s off11)) := rfl

/-- Settles O36: JMP is one write of PC, with the base register. -/
theorem jmpGoesToTheBaseRegister : Obligations.JmpGoesToTheBaseRegister :=
  fun s base =>
    ⟨⟨_, exec_jmp base s, s.setPc_pc _, jumpsOnly_setPc s _⟩, fieldsAt_of_decode⟩

/-- Settles O37: the jump after the link write keeps R7, and is to the target JSR started with. -/
theorem jsrLinksAndJumps : Obligations.JsrLinksAndJumps :=
  fun s off11 =>
    ⟨⟨_, exec_jsr off11 s, s.link_linkReg, s.link.setPc_pc _, jumpsOnly_link_setPc s _⟩,
      fieldsAt_of_decode⟩

end Sys2Proof.Machine
end

section
/-!
LEA (R125): one definition, of the PC-relative address as a sum of signed numbers; no read is made.
-/
namespace Sys2Proof.Machine

/-- R125, the offset a number from -256 to 255 (R54). -/
theorem exec_lea (dr : Reg) (off9 : BitVec 9) (s : State) :
    exec (.lea dr off9) s =
      .next (s.define dr (BitVec.ofInt 16 (s.pc.toInt + off9.toInt))) := by
  rw [exec, execLea, pcRel9, add_sext_eq_ofInt (by decide)]

/-- Settles O28: LEA is one definition, of the address, and asks nothing of the cell there. -/
theorem leaDefinesTheAddress : Obligations.LeaDefinesTheAddress :=
  fun s dr off9 => ⟨plain_load (exec_lea dr off9 s), fieldsAt_of_decode⟩

end Sys2Proof.Machine
end

section
/-!
Instructions without a device operation: JSRR (R117), the generic TRAP with an unmapped vector
(R137) and the reserved opcodes (R150, R151). And the services the generic TRAP stands for (R130).
-/
namespace Sys2Proof.Machine

/-! ### JSRR -/

/-- JSRR is the link write, then one write of PC, with the base as the first leaves it (D16). -/
theorem exec_jsrr (base : Reg) (s : State) :
    exec (.jsrr base) s = .next (s.link.setPc (s.link.reg base)) := rfl

/-- Settles O38: the base is read after the link write, so base R7 is the return address. -/
theorem jsrrLinksThenReadsTheBase : Obligations.JsrrLinksThenReadsTheBase :=
  fun s base =>
    ⟨_, exec_jsrr base s, s.link_linkReg, jumpsOnly_link_setPc s _,
      fun other => s.link_sameRegsBut base (by simpa using other),
      fun isLink => isLink ▸ s.link_linkReg⟩

/-! ### The generic TRAP -/

/-- Settles O39: each of the six vectors selects its service in the dispatch of R130. -/
theorem genericTrapPerformsTheServiceItNames : Obligations.GenericTrapPerformsTheServiceItNames :=
  fun _ => ⟨rfl, rfl, rfl, rfl, rfl, rfl⟩

theorem not_mem_mappedVectors {vect8 : BitVec 8} (h : vect8.toNat < 0x20 ∨ 0x25 < vect8.toNat) :
    vect8 ∉ mappedVectors := by
  intro mapped
  have within : ∀ v ∈ mappedVectors, 0x20 ≤ v.toNat ∧ v.toNat ≤ 0x25 := by decide
  have := within vect8 mapped
  omega

/-- An unmapped vector raises after the link write (R137, D21). -/
theorem exec_trap_of_unmapped {vect8 : BitVec 8} (h : vect8 ∉ mappedVectors) (s : State) :
    exec (.trap vect8) s = .next (s.link.raise .invalidTrapVector) := by
  rw [exec, execTrap, trapDispatch_of_unmapped h, Result.outcome_raised]

/-- The link write leaves what a TRAP has to leave (R130, R138). -/
theorem trapFrame_link (s : State) : TrapFrame [linkReg] [] s s.link :=
  ⟨s.link_linkReg, s.link_sameRegsBut, fun _ _ => rfl, rfl, rfl, rfl⟩

/-- Settles O40: after the link write RunState alone changes. -/
theorem unmappedVectorHaltsAfterTheLinkWrite :
    Obligations.UnmappedVectorHaltsAfterTheLinkWrite :=
  fun s _ outside =>
    ⟨_, exec_trap_of_unmapped (not_mem_mappedVectors outside) s, rfl, trapFrame_link s, rfl, rfl,
      rfl, rfl⟩

/-! ### The reserved opcodes -/

theorem toNat_opcodeOf (w : Word) : (opcodeOf w).toNat = w.toNat / 4096 := by
  rw [opcodeOf, toNat_extract_eq_bitsNat w 15 12, bitsNat]
  omega

theorem decode_of_opcode_8 {w : Word} (h : (opcodeOf w).toNat = 8) : decode w = .rti := by
  simp [decode, h]

theorem decode_of_opcode_13 {w : Word} (h : (opcodeOf w).toNat = 13) : decode w = .res := by
  simp [decode, h]

/-- RTI and RES are the terminal transition alone (R150, R151). -/
theorem exec_reserved {i : Instr} (h : i = .rti ∨ i = .res) (s : State) :
    exec i s = .next (s.raise .invalidOpcode) := by
  rcases h with rfl | rfl <;> rfl

/-- Settles O53: the two ranges are the Words of opcodes 8 and 13. -/
theorem reservedOpcodesHaltAndChangeNothingElse :
    Obligations.ReservedOpcodesHaltAndChangeNothingElse := by
  intro s
  refine ⟨exec_reserved (.inl rfl) s, exec_reserved (.inr rfl) s, fun w =>
    ⟨fun low high => ?_, fun low high => ?_⟩⟩
  · have rti : decode w = .rti := decode_of_opcode_8 (by rw [toNat_opcodeOf]; omega)
    exact ⟨rti, exec_reserved (.inl rti) s⟩
  · have res : decode w = .res := decode_of_opcode_13 (by rw [toNat_opcodeOf]; omega)
    exact ⟨res, exec_reserved (.inr res) s⟩

end Sys2Proof.Machine
end

section
/-!
Reset and the first steps (R23, R166, R190, R192): the start after one loader call, a step that is
cancelled, and a run over zeroed memory.
-/
namespace Sys2Proof.Machine

/-! ### Reset, one loader call and the start -/

theorem boot_one_image (c : Config) (origin : Word) {words : List Word}
    (fits : words.length ≤ 65536) :
    boot c [(origin, words)] = .ok (State.start c (populate origin words [])) := by
  simp [boot, loadImages, loadImage, fits]

/-- Settles O1: the loader writes the image into the empty memory, and the rest of the start's state
is constant. -/
theorem bootLeavesTheResetState : Obligations.BootLeavesTheResetState := by
  refine ⟨fun c origin words fits => ?_, rfl, rfl⟩
  exact ⟨_, boot_one_image c origin fits, State.start_reg c _, rfl, rfl, rfl, nofun, rfl,
    fun i w found => read_populate_at fits found, fun a outside => read_populate_of_outside outside⟩

/-! ### A cancelled step -/

/-- Settles O8: the sample of the request comes first. -/
theorem cancellationIsTakenBeforeTheFetch : Obligations.CancellationIsTakenBeforeTheFetch :=
  fun _ running raised => step_of_cancelled running raised

/-! ### A run over zeroed memory -/

/-- Nothing but zeroes to run, no key and no cancellation, for `n` steps. -/
structure ZeroedFor (n : Nat) (s : State) : Prop where
  running : s.runState = .running
  zeroed : s.mem = []
  uncancelled : ∀ k, s.cancelAfter = some k → n ≤ k
  keyless : ∀ e ∈ s.input, e = .notYet

/-- From `s` to `t` PC went `n` Words on, and registers, COND and output stayed. -/
structure RanOn (n : Nat) (s t : State) : Prop where
  pc : t.pc = s.pc + BitVec.ofNat 16 n
  regs : SameRegsBut [] s t
  cond : t.cond = s.cond
  output : t.output = s.output

theorem RanOn.zero (s : State) : RanOn 0 s s :=
  ⟨(BitVec.add_zero s.pc).symm, fun _ _ => rfl, rfl, rfl⟩

theorem RanOn.succ {n : Nat} {s t u : State} (first : RanOn 1 s t) (rest : RanOn n t u) :
    RanOn (n + 1) s u where
  pc := by rw [rest.pc, first.pc, add_ofNat_succ s.pc n]
  regs r hr := (rest.regs r hr).trans (first.regs r hr)
  cond := rest.cond.trans first.cond
  output := rest.output.trans first.output

section
variable {n : Nat} {s : State}

theorem fatallyHalted_of_running (h : s.runState = .running) : s.fatallyHalted = false := by
  rw [State.fatallyHalted, h]

theorem noKeyReady_of_keyless (keyless : ∀ e ∈ s.input, e = .notYet) : noKeyReady s = true := by
  unfold noKeyReady
  split <;> simp_all

/-- A read anywhere returns 0x0000 and stores nothing but a 0x0000, at KBSR (D4). -/
theorem memRead_of_zeroed (a : Word) (zeroed : s.mem = []) (keyless : ∀ e ∈ s.input, e = .notYet) :
    ∃ t, memRead a s = .done 0x0000#16 t ∧ t.mem = [] ∧ ∀ e ∈ t.input, e = .notYet := by
  by_cases address : a = kbsrAddr
  · subst address
    refine ⟨s.noKey, memRead_kbsr_none (noKeyReady_of_keyless keyless), ?_, fun e he =>
      keyless e (List.mem_of_mem_tail he)⟩
    simp [State.noKey, zeroed, Memory.write, Memory.clear]
  · have zero : s.cell a = 0x0000#16 := by rw [State.cell, zeroed, Memory.read]
    exact ⟨s, zero ▸ memRead_ne address s, zeroed, keyless⟩

/-- One step over zeroed memory is a branch never taken (D1). -/
theorem step_of_zeroed (h : ZeroedFor (n + 1) s) :
    ∃ t, step s = .next t ∧ ZeroedFor n t ∧ RanOn 1 s t := by
  have notCancelled : s.cancelAfter ≠ some 0 := fun now => by
    have := h.uncancelled 0 now
    omega
  obtain ⟨t, read, zeroed, keyless⟩ := memRead_of_zeroed s.pc h.zeroed h.keyless
  obtain ⟨io, same⟩ := ioDone_of_memRead read
  have output : t.output = s.output := output_of_memRead read
  have never : decode 0x0000#16 = .br 0#3 0#9 := by decide
  refine ⟨t.advanced, ?_, ⟨same.trans h.running, zeroed, fun k later => ?_, keyless⟩,
    congrArg (· + 1#16) io.pc, fun r _ => io.reg r, io.cond, output⟩
  · rw [step_of_fetch_done h.running notCancelled read, never, exec_br_never]
  · obtain ⟨m, count, rfl⟩ := Option.map_eq_some_iff.mp later
    exact Nat.le_sub_of_add_le (h.uncancelled m (io.cancel.symm.trans count))

/-- `n` steps over zeroed memory, each with a next state. -/
theorem run_of_zeroed (h : ZeroedFor n s) :
    s.safeFor n ∧ ∃ t, stepsTo n s t ∧ ZeroedFor 0 t ∧ RanOn n s t := by
  have safe : s.fatallyHalted = false := fatallyHalted_of_running h.running
  induction n generalizing s with
  | zero => exact ⟨safe, s, rfl, h, RanOn.zero s⟩
  | succ n ih =>
    obtain ⟨t, first, later, one⟩ := step_of_zeroed h
    obtain ⟨safeLater, u, steps, last, rest⟩ := ih later (fatallyHalted_of_running later.running)
    refine ⟨⟨safe, ?_⟩, u, ⟨t, first, steps⟩, last, one.succ rest⟩
    rw [first]
    exact safeLater

end

/-- Settles O12, by induction on the number of steps. -/
theorem zeroedMemoryRunsOnSafely : Obligations.ZeroedMemoryRunsOnSafely := by
  intro n s running zeroed uncancelled keyless
  obtain ⟨safe, t, steps, last, ran⟩ := run_of_zeroed ⟨running, zeroed, uncancelled, keyless⟩
  exact ⟨safe, t, steps, last.running, ran.pc, ran.regs, ran.cond, last.zeroed, ran.output⟩

end Sys2Proof.Machine
end

section
/-!
GETC, OUT, IN and HALT (R131, R132, R134, R136) by what the devices do: a byte that comes, a read
that fails, an output that is accepted and one that fails (R164).
-/
namespace Sys2Proof.Machine

section
variable {s : State}

/-! ### What the read of GETC and IN comes to -/

/-- The wait passes over the moments without a byte; an endless supply stays (R48, R75). -/
theorem takeByte_of_byte_coming {l after : List InputEvent} {n : Nat} {b : Byte}
    {rest : List InputEvent}
    (h : l = afterWaits n (.byte b :: rest) ∧ after = rest ∨
      l = afterWaits n (.endless b :: rest) ∧ after = .endless b :: rest) :
    takeByte l = .byte b after := by
  rcases h with ⟨rfl, rfl⟩ | ⟨rfl, rfl⟩ <;> exact takeByte_afterWaits n _

theorem takeByte_of_failing {l : List InputEvent} {n : Nat} {e : InputEvent}
    {rest : List InputEvent} (failure : e = .fails ∨ e = .readFails)
    (h : l = afterWaits n (e :: rest)) : takeByte l = .fails := by
  rw [h, takeByte_afterWaits]
  rcases failure with rfl | rfl <;> rfl

theorem inRead_of_takeByte_byte {b : Byte} {after : List InputEvent}
    (h : takeByte s.input = .byte b after) : inRead s = .done b (s.setInput after) := by
  rw [inRead, h]

theorem inRead_of_takeByte_fails (h : takeByte s.input = .fails) :
    inRead s = .raised (s.raise .hostIOError) := by
  rw [inRead, h]

/-! ### GETC -/

theorem exec_getc_of_byte {b : Byte} {after : List InputEvent}
    (h : takeByte s.input = .byte b after) :
    exec .getc s = .next ((s.link.setInput after).define serviceReg (zext8 b)) := by
  have read : inRead s.link = .done b (s.link.setInput after) := inRead_of_takeByte_byte h
  rw [exec, execGetc, getcService, read, Result.bind_done, Result.outcome_done]

theorem exec_getc_of_failing_read (h : takeByte s.input = .fails) :
    exec .getc s = .next (s.link.raise .hostIOError) := by
  have read : inRead s.link = .raised (s.link.raise .hostIOError) := inRead_of_takeByte_fails h
  rw [exec, execGetc, getcService, read, Result.bind_raised, Result.outcome_raised]

/-! ### IN: the prompt, then the read, then the echo (D17) -/

section
variable (prompted : acceptsOutput s s.config.inPrompt.length = true)
include prompted

/-- IN whose prompt is accepted goes on from the state after it. -/
theorem exec_in_of_prompted :
    exec .inp s = ((inRead (s.link.wrote s.config.inPrompt)).bind fun b t =>
      (outWrite b t).bind fun _ u => .done () (u.define serviceReg (zext8 b))).outcome := by
  have prompt : outWriteAll s.link.config.inPrompt s.link =
      .done () (s.link.wrote s.config.inPrompt) := outWriteAll_accepted prompted
  rw [exec, execIn, inService, prompt, Result.bind_done]

theorem exec_in_of_failing_read (h : takeByte s.input = .fails) :
    exec .inp s = .next ((s.link.wrote s.config.inPrompt).raise .hostIOError) := by
  have read : inRead (s.link.wrote s.config.inPrompt) =
      .raised ((s.link.wrote s.config.inPrompt).raise .hostIOError) := inRead_of_takeByte_fails h
  rw [exec_in_of_prompted prompted, read, Result.bind_raised, Result.outcome_raised]

/-- IN whose byte came goes on to the echo. -/
theorem exec_in_of_byte {b : Byte} {after : List InputEvent}
    (h : takeByte s.input = .byte b after) :
    exec .inp s = ((outWrite b ((s.link.wrote s.config.inPrompt).setInput after)).bind fun _ u =>
      .done () (u.define serviceReg (zext8 b))).outcome := by
  have read : inRead (s.link.wrote s.config.inPrompt) =
      .done b ((s.link.wrote s.config.inPrompt).setInput after) := inRead_of_takeByte_byte h
  rw [exec_in_of_prompted prompted, read, Result.bind_done]

end

/-! ### OUT and HALT -/

theorem exec_out (s : State) :
    exec .out s = (outWrite (lowByte (s.reg serviceReg)) s.link).outcome := by
  rw [exec, execOut, outService, s.link_serviceReg]

theorem exec_halt (s : State) :
    exec .halt s = ((outWriteAll s.config.haltNotice s.link).bind fun _ t =>
      .raised (t.raise .haltRequested)).outcome := rfl

/-! ### An output that fails -/

theorem outWrite_failing {b : Byte} (h : s.outputFailsAfter = some 0) :
    outWrite b s = .raised (s.raise .hostIOError) := by
  rw [outWrite, h]

/-- IN whose prompt is cut takes no byte (D17). -/
theorem exec_in_of_prompt_cut {k : Nat} (h : s.outputFailsAfter = some k)
    (cut : k < s.config.inPrompt.length) :
    exec .inp s = .next ((s.link.wrote (s.config.inPrompt.take k)).raise .hostIOError) := by
  have prompt : outWriteAll s.link.config.inPrompt s.link =
      .raised ((s.link.wrote (s.config.inPrompt.take k)).raise .hostIOError) :=
    outWriteAll_failing h cut
  rw [exec, execIn, inService, prompt, Result.bind_raised, Result.outcome_raised]

end

/-! ### What a definition of R0 after the link write leaves -/

/-- GETC and IN end with R0 defined, over what the link write and the output left (R131, R134). -/
theorem trapFrame_define {s u : State} (h : TrapFrame [linkReg] [] s u) (v : Word) :
    TrapFrame [linkReg, serviceReg] [] s (u.define serviceReg v) := by
  obtain ⟨link, regs, rest⟩ := h
  refine ⟨?_, fun r hr => ?_, rest⟩
  · have other : linkReg ≠ serviceReg := by decide
    simpa [other] using link
  · obtain ⟨notLink, notService⟩ : r ≠ linkReg ∧ r ≠ serviceReg := by simpa using hr
    simpa [notService] using regs r (by simpa using notLink)

/-! ### The services whose devices do their part -/

/-- Settles O41: after the link write GETC is the read and the definition of R0. -/
theorem getcReturnsTheNextByte : Obligations.GetcReturnsTheNextByte := by
  intro s n b rest after coming
  exact ⟨_, exec_getc_of_byte (takeByte_of_byte_coming coming), by simp [zext8],
    State.define_cond _ _ _ ▸ flagDescribes_condOf _,
    trapFrame_define (u := s.link.setInput after) (trapFrame_link s) _, rfl, rfl, rfl, rfl⟩

/-- Settles O50: prompt, read, echo and the definition of R0, each done. -/
theorem inPromptsReadsEchoesAndReturns : Obligations.InPromptsReadsEchoesAndReturns := by
  intro s n b rest after coming accepts
  have prompted : acceptsOutput s s.config.inPrompt.length = true :=
    acceptsOutput_mono accepts (Nat.le_succ _)
  have last : acceptsOutput (s.link.wrote s.config.inPrompt) 1 = true := acceptsOutput_wrote accepts
  have echo : outWrite b ((s.link.wrote s.config.inPrompt).setInput after) =
      .done () (((s.link.wrote s.config.inPrompt).setInput after).wrote [b]) :=
    outWrite_accepted last
  have ends := exec_in_of_byte prompted (takeByte_of_byte_coming coming)
  rw [echo] at ends
  exact ⟨_, ends, by simp [zext8], State.define_cond _ _ _ ▸ flagDescribes_condOf _,
    trapFrame_define (u := ((s.link.wrote s.config.inPrompt).setInput after).wrote [b])
      (trapFrame_link s) _, rfl, rfl, rfl⟩

/-- Settles O44: OUT is one accepted byte. -/
theorem outWritesTheLowByte : Obligations.OutWritesTheLowByte := by
  intro s accepts
  have written : outWrite (lowByte (s.reg serviceReg)) s.link =
      .done () (s.link.wrote [lowByte (s.reg serviceReg)]) := outWrite_accepted accepts
  have ends := exec_out s
  rw [written, lowByte_eq] at ends
  exact ⟨_, ends, rfl, trapFrame_link_wrote s _, rfl, rfl, rfl⟩

/-- Settles O51: the notice is accepted, and the terminal transition is all that follows it. -/
theorem haltWritesTheNoticeAndStops : Obligations.HaltWritesTheNoticeAndStops := by
  intro s accepts
  have notice : outWriteAll s.config.haltNotice s.link =
      .done () (s.link.wrote s.config.haltNotice) := outWriteAll_accepted accepts
  have ends := exec_halt s
  rw [notice] at ends
  exact ⟨_, ends, rfl, rfl, trapFrame_link_wrote s s.config.haltNotice, rfl, rfl⟩

/-! ### A read that fails -/

/-- Settles O43: the failure comes after the link write in GETC, after the prompt too in IN. -/
theorem failingReadEndsGetcAndIn : Obligations.FailingReadEndsGetcAndIn := by
  intro s n e rest failure script
  have fails := takeByte_of_failing failure script
  exact ⟨⟨_, exec_getc_of_failing_read fails, rfl, trapFrame_link s, rfl, rfl⟩, fun prompted =>
    ⟨_, exec_in_of_failing_read prompted fails, rfl,
      trapFrame_link_wrote s s.config.inPrompt, rfl, rfl⟩⟩

end Sys2Proof.Machine
end

section
/-!
The reads of a string (D10), and how many there can be. Between two reads of KBSR lie 65535 other
addresses; each read of it that is no terminator uses up an answer of the script, but for an endless
supply, which leaves the keyboard cells at fixed Words.
-/
namespace Sys2Proof.Machine

variable {s t u : State} {a w : Word} {ws : List Word} {b : Byte}

/-! ### What the reads leave alone -/

/-- A part of the state that no returning read changes is as it was after a string's reads. -/
theorem readsWords_leaves {γ : Type} {f : State → γ}
    (left : ∀ {a v : Word} {s t : State}, memRead a s = .done v t → f t = f s)
    (reads : readsWords ws s a u) : f u = f s := by
  induction ws generalizing s a with
  | nil => exact congrArg f reads
  | cons w ws ih =>
    obtain ⟨-, s1, read, later⟩ := reads
    exact (ih later).trans (left read)

theorem runState_of_memRead (read : memRead a s = .done w t) : t.runState = s.runState :=
  (ioDone_of_memRead read).2

/-- A read that returns: of a cell, of KBSR with a byte there, or of KBSR without one (R31). -/
theorem memRead_done_cases (read : memRead a s = .done w t) :
    (a ≠ kbsrAddr ∧ w = s.cell a ∧ t = s) ∨
      (a = kbsrAddr ∧ w = kbsrReady ∧
        ∃ b rest, readyByte s = some (b, rest) ∧ t = s.keyTaken b rest) ∨
      (a = kbsrAddr ∧ w = 0x0000#16 ∧ t = s.noKey) := by
  by_cases address : a = kbsrAddr
  · subst address
    rcases keyboard_answers s with ⟨b, rest, key⟩ | key | ⟨rest, key⟩ | ⟨rest, key⟩
    · rw [memRead_kbsr_ready key] at read; cases read
      exact .inr (.inl ⟨rfl, rfl, b, rest, key, rfl⟩)
    · rw [memRead_kbsr_none key] at read; cases read
      exact .inr (.inr ⟨rfl, rfl, rfl⟩)
    · rw [memRead_kbsr_fails key] at read; cases read
    · rw [memRead_kbsr_readFails key] at read; cases read
  · rw [memRead_ne address] at read; cases read
    exact .inl ⟨address, rfl, rfl⟩

theorem outputFailsAfter_of_memRead (read : memRead a s = .done w t) :
    t.outputFailsAfter = s.outputFailsAfter := by
  rcases memRead_done_cases read with ⟨-, -, rfl⟩ | ⟨-, -, b, rest, -, rfl⟩ | ⟨-, -, rfl⟩ <;> rfl

/-- The last of a string's reads, apart from those before it. -/
theorem readsWords_concat (reads : readsWords (ws ++ [w]) s a u) :
    ∃ t, readsWords ws s a t ∧ w ≠ 0x0000#16 ∧
      memRead (a + BitVec.ofNat 16 ws.length) t = .done w u := by
  induction ws generalizing s a with
  | nil =>
    obtain ⟨more, t, read, rfl⟩ := reads
    exact ⟨s, rfl, more, (BitVec.add_zero a).symm ▸ read⟩
  | cons w1 ws ih =>
    obtain ⟨more, s1, read, later⟩ := reads
    obtain ⟨t, before, last⟩ := ih later
    refine ⟨t, ⟨more, s1, read, before⟩, ?_⟩
    rwa [List.length_cons, add_ofNat_succ]

/-! ### KBSR's reads within a string -/

/-- A KBSR read that is no terminator found a byte (R31). -/
theorem keyTaken_of_memRead_kbsr (read : memRead kbsrAddr s = .done w t) (more : w ≠ 0x0000#16) :
    ∃ b rest, readyByte s = some (b, rest) ∧ t = s.keyTaken b rest := by
  rcases memRead_done_cases read with ⟨plain, -⟩ | ⟨-, -, taken⟩ | ⟨-, zero, -⟩
  · exact absurd rfl plain
  · exact taken
  · exact absurd zero more

theorem readyByte_cases {rest : List InputEvent} (key : readyByte s = some (b, rest)) :
    s.input = .byte b :: rest ∨ ∃ l, s.input = .endless b :: l ∧ rest = s.input := by
  unfold readyByte at key
  split at key
  · rename_i script; cases key; exact .inl script
  · rename_i script; cases key; exact .inr ⟨_, script, rfl⟩
  all_goals cases key

/-- The device offers `b` for ever, and the keyboard cells hold what a poll makes of that. -/
structure KeySettled (b : Byte) (s : State) : Prop where
  script : ∃ l, s.input = .endless b :: l
  status : s.cell kbsrAddr = kbsrReady
  data : s.cell kbdrAddr = zext8 b

theorem readyByte_of_endless {l : List InputEvent} (script : s.input = .endless b :: l) :
    readyByte s = some (b, s.input) := by
  rw [readyByte, script]

theorem keySettled_keyTaken {l : List InputEvent} (script : s.input = .endless b :: l) :
    KeySettled b (s.keyTaken b s.input) :=
  ⟨⟨l, script⟩, s.keyTaken_kbsr b _, s.keyTaken_kbdr b _⟩

/-- Once the keyboard cells are settled, no read changes a cell, and each returns its cell. -/
theorem KeySettled.memRead_cell (h : KeySettled b s) (a : Word) :
    ∃ t, memRead a s = .done (s.cell a) t ∧ KeySettled b t ∧ t.cell = s.cell := by
  by_cases address : a = kbsrAddr
  · subst address
    obtain ⟨l, script⟩ := h.script
    have settled := keySettled_keyTaken script
    refine ⟨_, h.status ▸ memRead_kbsr_ready (readyByte_of_endless script), settled,
      funext fun c => ?_⟩
    by_cases status : c = kbsrAddr
    · rw [status, settled.status, h.status]
    by_cases data : c = kbdrAddr
    · rw [data, settled.data, h.data]
    exact s.keyTaken_cells b s.input c (by simp [status, data])
  · exact ⟨s, memRead_ne address s, h, rfl⟩

/-- A string read over settled keyboard cells is the Words of the cells, none of them 0x0000. -/
theorem KeySettled.words_read (h : KeySettled b s) (reads : readsWords ws s a u) :
    KeySettled b u ∧ u.cell = s.cell ∧
      ∀ i, i < ws.length → s.cell (a + BitVec.ofNat 16 i) ≠ 0x0000#16 := by
  induction ws generalizing s a with
  | nil =>
    obtain rfl : u = s := reads
    exact ⟨h, rfl, nofun⟩
  | cons w ws ih =>
    obtain ⟨more, t, read, later⟩ := reads
    obtain ⟨t', settledRead, settled, cells⟩ := h.memRead_cell a
    obtain ⟨rfl, rfl⟩ : s.cell a = w ∧ t' = t := by simpa [read, eq_comm] using settledRead
    obtain ⟨last, same, words⟩ := ih settled later
    refine ⟨last, same.trans cells, fun i hi => ?_⟩
    cases i with
    | zero => rwa [BitVec.add_zero]
    | succ i => rw [add_ofNat_succ, ← cells]; exact words i (Nat.lt_of_succ_lt_succ hi)

/-! ### How long a string can be -/

/-- A read that ends a string if it is its next: the terminator, or no Word at all. -/
abbrev EndsString (r : Result Word) : Prop := ∀ w t, r = .done w t → w = 0x0000#16

/-- Over settled keyboard cells a string that ends does so within one round of the addresses. -/
theorem KeySettled.length_lt (h : KeySettled b s) (reads : readsWords ws s a u) {c : Word}
    (ends : EndsString (memRead c u)) : ws.length < 65536 := by
  obtain ⟨settled, same, words⟩ := h.words_read reads
  by_contra long
  obtain ⟨t, read, -⟩ := settled.memRead_cell c
  have zero : s.cell c = 0x0000#16 := same ▸ ends _ t read
  have address : a + BitVec.ofNat 16 (c - a).toNat = c := by
    rw [BitVec.ofNat_toNat, BitVec.setWidth_eq, BitVec.add_comm, BitVec.sub_add_cancel]
  exact words (c - a).toNat (by omega) (address.symm ▸ zero)

/-- How many reads stand before the next one of KBSR, from the address `a` on. -/
def readsToKbsr (a : Word) : Nat := (kbsrAddr - a).toNat

theorem readsToKbsr_lt (a : Word) : readsToKbsr a < 65536 := (kbsrAddr - a).isLt

theorem readsToKbsr_succ (h : a ≠ kbsrAddr) : readsToKbsr (a + 1#16) + 1 = readsToKbsr a := by
  unfold readsToKbsr kbsrAddr at *
  bv_omega

theorem readsToKbsr_kbsr_succ : readsToKbsr (kbsrAddr + 1#16) = 65535 := by decide

/-- Without an endless supply, or where the next read ends it, a string is no longer than the way to
KBSR and one round of the addresses for each answer of the script (log 12). -/
theorem length_le_of_readsWords (reads : readsWords ws s a u)
    (ends : noEndlessInput s = true ∨
      EndsString (memRead (a + BitVec.ofNat 16 ws.length) u)) :
    ws.length ≤ readsToKbsr a + 65536 * s.input.length := by
  induction ws generalizing s a with
  | nil => exact Nat.zero_le _
  | cons w ws ih =>
    obtain ⟨more, t, read, later⟩ := reads
    rw [List.length_cons, add_ofNat_succ] at ends
    rw [List.length_cons]
    by_cases address : a = kbsrAddr
    · subst address
      obtain ⟨b, rest, key, rfl⟩ := keyTaken_of_memRead_kbsr read more
      rcases readyByte_cases key with script | ⟨l, script, rfl⟩
      · have shorter := ih later (ends.imp_left fun h => by
          simpa [noEndlessInput, State.keyTaken, script] using h)
        have left : (s.keyTaken b rest).input.length + 1 = s.input.length := by rw [script]; rfl
        rw [readsToKbsr_kbsr_succ] at shorter
        omega
      · have offered : noEndlessInput s ≠ true := by simp [noEndlessInput, script]
        have short := (keySettled_keyTaken script).length_lt later (ends.resolve_left offered)
        have answers : s.input.length ≠ 0 := by simp [script]
        omega
    · rw [memRead_ne address] at read
      cases read
      have shorter := ih later ends
      have := readsToKbsr_succ address
      omega

end Sys2Proof.Machine
end

section
/-!
PUTS and PUTSP (R133, R135) over the Words their reads return (D10): all of the text is written if
the device accepts it, and the walk ends at the terminator, at a read that fails or at an output
that fails (R164).
-/
namespace Sys2Proof.Machine

variable {α : Type} {s t u : State} {a w ret : Word} {ws init : List Word} {out : List Byte}
  {bytesOf : Word → List Byte} {i : Instr}

/-! ### Reads beside the link write and the output -/

/-- `s` as a service sees it: with the return address `ret` in R7 and `out` written. -/
def State.serving (s : State) (ret : Word) (out : List Byte) : State :=
  (s.setReg linkReg ret).wrote out

theorem State.link_eq_serving (s : State) : s.link = s.serving s.pc [] := (s.link.wrote_nil).symm

theorem State.wrote_serving (s : State) (ret : Word) (xs ys : List Byte) :
    (s.serving ret xs).wrote ys = s.serving ret (xs ++ ys) := State.wrote_append _ xs ys

/-- The same end, in the state `f` makes of its own. -/
def Result.mapState (f : State → State) : Result α → Result α
  | .done v t => .done v (f t)
  | .raised t => .raised (f t)
  | .stuck e => .stuck e

/-- A memory read sees neither R7 nor the output. -/
theorem memRead_serving (a : Word) (s : State) (ret : Word) (out : List Byte) :
    memRead a (s.serving ret out) = (memRead a s).mapState (·.serving ret out) := by
  by_cases address : a = kbsrAddr
  · subst address
    rcases keyboard_answers s with ⟨b, rest, key⟩ | key | ⟨rest, key⟩ | ⟨rest, key⟩
    · rw [memRead_kbsr_ready key, memRead_kbsr_ready (s := s.serving ret out) key]; rfl
    · rw [memRead_kbsr_none key, memRead_kbsr_none (s := s.serving ret out) key]; rfl
    · rw [memRead_kbsr_fails key, memRead_kbsr_fails (s := s.serving ret out) key]; rfl
    · rw [memRead_kbsr_readFails key, memRead_kbsr_readFails (s := s.serving ret out) key]; rfl
  · rw [memRead_ne address, memRead_ne address]; rfl

theorem acceptsOutput_congr (h : t.outputFailsAfter = s.outputFailsAfter) (n : Nat) :
    acceptsOutput t n = acceptsOutput s n := by
  rw [acceptsOutput, acceptsOutput, h]

theorem acceptsOutput_serving_nil (s : State) (ret : Word) (n : Nat) :
    acceptsOutput (s.serving ret []) n = acceptsOutput s n := by
  rw [State.serving, State.wrote_nil]
  exact acceptsOutput_congr (s.setReg_outputFailsAfter linkReg ret) n

/-- How many bytes the device still accepts after a string's reads and what was written. -/
theorem outputFailsAfter_serving (h : t.outputFailsAfter = s.outputFailsAfter) :
    (t.serving ret out).outputFailsAfter = (s.serving ret out).outputFailsAfter :=
  congrArg (Option.map _) h

/-! ### The walk along reads that return -/

/-- One round of a walk whose read is no terminator and whose output is accepted. -/
theorem walkString_of_read (read : memRead a s = .done w t) (more : w ≠ 0x0000#16)
    (accepts : acceptsOutput (s.serving ret out) (bytesOf w).length = true) (m : Nat) :
    walkString bytesOf (m + 1) a (s.serving ret out) =
      walkString bytesOf m (a + 1#16) (t.serving ret (out ++ bytesOf w)) := by
  have same := outputFailsAfter_serving (ret := ret) (out := out) (outputFailsAfter_of_memRead read)
  rw [← acceptsOutput_congr same] at accepts
  rw [walkString, memRead_serving, read, Result.mapState, Result.bind_done, if_neg more,
    outWriteAll_accepted accepts, Result.bind_done, State.wrote_serving]

/-- The walk along a string's reads writes their bytes and goes on behind them. -/
theorem walkString_of_readsWords (reads : readsWords ws s a u)
    (accepts : acceptsOutput (s.serving ret out) (ws.flatMap bytesOf).length = true) (m : Nat) :
    walkString bytesOf (ws.length + m) a (s.serving ret out) =
      walkString bytesOf m (a + BitVec.ofNat 16 ws.length)
        (u.serving ret (out ++ ws.flatMap bytesOf)) := by
  induction ws generalizing s a out with
  | nil =>
    obtain rfl : u = s := reads
    simp
  | cons w ws ih =>
    obtain ⟨more, t, read, later⟩ := reads
    rw [List.flatMap_cons, List.length_append] at accepts
    have first := acceptsOutput_mono accepts (Nat.le_add_right _ _)
    have rest :
        acceptsOutput (t.serving ret (out ++ bytesOf w)) (ws.flatMap bytesOf).length = true := by
      rw [acceptsOutput_congr (outputFailsAfter_serving (outputFailsAfter_of_memRead read)),
        ← State.wrote_serving]
      exact acceptsOutput_wrote accepts
    rw [List.length_cons, Nat.add_right_comm, walkString_of_read read more first, ih later rest,
      add_ofNat_succ a ws.length, List.flatMap_cons, List.append_assoc]

/-- The output fails within the bytes of one Word: its read is the last (R164). -/
theorem walkString_of_output_cut {k : Nat} (read : memRead a s = .done w t) (more : w ≠ 0x0000#16)
    (fails : (s.serving ret out).outputFailsAfter = some k) (cut : k < (bytesOf w).length)
    (m : Nat) :
    walkString bytesOf (m + 1) a (s.serving ret out) =
      .raised ((t.serving ret (out ++ (bytesOf w).take k)).raise .hostIOError) := by
  have same := outputFailsAfter_serving (ret := ret) (out := out) (outputFailsAfter_of_memRead read)
  rw [walkString, memRead_serving, read, Result.mapState, Result.bind_done, if_neg more,
    outWriteAll_failing (same.trans fails) cut, Result.bind_raised, State.wrote_serving]

/-! ### The two services -/

/-- What PUTS and PUTSP have in common: each is a walk that writes some byte for every Word. -/
structure StringService (i : Instr) (bytesOf : Word → List Byte) : Prop where
  writes : ∀ w, 0 < (bytesOf w).length
  runs : ∀ s, exec i s =
    (walkString bytesOf (stringReads s.link) (s.link.reg serviceReg) s.link).outcome

theorem stringService_puts : StringService .puts putsBytes :=
  ⟨fun _ => Nat.one_pos, fun _ => rfl⟩

theorem stringService_putsp : StringService .putsp putspBytes := by
  refine ⟨fun w => ?_, fun _ => rfl⟩
  unfold putspBytes
  split <;> simp

namespace StringService

section
variable (service : StringService i bytesOf)
include service

theorem exec_eq (s : State) :
    exec i s =
      (walkString bytesOf (stringReads s) (s.reg serviceReg) (s.serving s.pc [])).outcome := by
  rw [service.runs, s.link_serviceReg, ← s.link_eq_serving]
  rfl

/-- What either service leaves, however it ends (R130, R138). -/
theorem frame (ends : exec i s = .next t) :
    TrapFrame [linkReg] [kbsrAddr, kbdrAddr] s t ∧ t.cond = s.cond := by
  have walked : NextAll (IoEffect s.link) (exec i s) := by
    rw [service.runs]
    exact Result.Ends.outcome (walkString_io _ _ _ s.link) (fun _ ⟨⟨io, _⟩, _⟩ => io)
      fun _ ⟨io, _⟩ => io
  have io := walked.next ends
  exact ⟨⟨(io.reg linkReg).trans s.link_linkReg,
    fun r hr => (io.reg r).trans (s.link_sameRegsBut r hr), io.cells, io.pc, io.cancel, io.config⟩,
    io.cond⟩

theorem length_le_flatMap (ws : List Word) : ws.length ≤ (ws.flatMap bytesOf).length := by
  induction ws with
  | nil => exact Nat.zero_le _
  | cons w ws ih =>
    have := service.writes w
    rw [List.flatMap_cons, List.length_append, List.length_cons]
    omega

section
variable (reads : readsWords ws s (s.reg serviceReg) u)
  (accepts : acceptsOutput s (ws.flatMap bytesOf).length = true)
include reads accepts

/-- A service whose string's reads are followed by one that ends it comes to that read. -/
theorem exec_of_end (ends : EndsString (memRead (s.reg serviceReg + BitVec.ofNat 16 ws.length) u)) :
    ∃ m, exec i s = (walkString bytesOf (m + 1) (s.reg serviceReg + BitVec.ofNat 16 ws.length)
      (u.serving s.pc (ws.flatMap bytesOf))).outcome := by
  have short := length_le_of_readsWords reads (.inr ends)
  have near := readsToKbsr_lt (s.reg serviceReg)
  obtain ⟨m, enough⟩ : ∃ m, stringReads s = ws.length + (m + 1) := by
    refine ⟨stringReads s - ws.length - 1, ?_⟩
    unfold stringReads
    omega
  rw [← acceptsOutput_serving_nil s s.pc] at accepts
  refine ⟨m, ?_⟩
  rw [service.exec_eq, enough, walkString_of_readsWords reads accepts, List.nil_append]

/-- The terminator: all is written and the service is done. -/
theorem exec_of_terminator
    (read : memRead (s.reg serviceReg + BitVec.ofNat 16 ws.length) u = .done 0x0000#16 t) :
    exec i s = .next (t.serving s.pc (ws.flatMap bytesOf)) := by
  obtain ⟨m, ends⟩ := service.exec_of_end reads accepts (by rw [read]; rintro w v ⟨⟩; rfl)
  rw [ends, walkString, memRead_serving, read]
  rfl

/-- A read that fails: what came before it is written (R164). -/
theorem exec_of_failing_read
    (read : memRead (s.reg serviceReg + BitVec.ofNat 16 ws.length) u = .raised t) :
    exec i s = .next (t.serving s.pc (ws.flatMap bytesOf)) := by
  obtain ⟨m, ends⟩ := service.exec_of_end reads accepts (by rw [read]; exact nofun)
  rw [ends, walkString, memRead_serving, read]
  rfl

end

/-- An output that fails within the bytes of the last Word read: the bytes before stay (R164). -/
theorem exec_of_output_cut {k : Nat} (reads : readsWords (init ++ [w]) s (s.reg serviceReg) u)
    (fails : s.outputFailsAfter = some k) (before : (init.flatMap bytesOf).length ≤ k)
    (cut : k < ((init ++ [w]).flatMap bytesOf).length) :
    exec i s = .next
      ((u.serving s.pc (((init ++ [w]).flatMap bytesOf).take k)).raise .hostIOError) := by
  obtain ⟨t, readsBefore, more, read⟩ := readsWords_concat reads
  have words := service.length_le_flatMap init
  obtain ⟨m, enough⟩ : ∃ m, stringReads s = init.length + (m + 1) := by
    refine ⟨stringReads s - init.length - 1, ?_⟩
    simp only [stringReads, fails, Option.elim_some]
    omega
  have accepts : acceptsOutput (s.serving s.pc []) (init.flatMap bytesOf).length = true := by
    rw [acceptsOutput_serving_nil]
    simpa [acceptsOutput, fails] using before
  have left : (t.serving s.pc (init.flatMap bytesOf)).outputFailsAfter =
      some (k - (init.flatMap bytesOf).length) := by
    have same := readsWords_leaves outputFailsAfter_of_memRead readsBefore
    exact congrArg (Option.map _) (same.trans fails)
  have text : (init ++ [w]).flatMap bytesOf = init.flatMap bytesOf ++ bytesOf w := by simp
  rw [text, List.length_append] at cut
  rw [service.exec_eq, enough, walkString_of_readsWords readsBefore accepts, List.nil_append,
    walkString_of_output_cut read more left (by omega), text, List.take_append,
    List.take_of_length_le before]
  rfl

end

end StringService

/-- Settles O47: the walk along the reads of `ws`, then its end by the terminator, by a failing read
or within the bytes of the last Word. -/
theorem stringServicesReadThroughTheKeyboardCells :
    Obligations.StringServicesReadThroughTheKeyboardCells := by
  intro s u ws i text which reads
  obtain ⟨bytesOf, service, rfl⟩ :
      ∃ bytesOf, StringService i bytesOf ∧ text = List.flatMap bytesOf := by
    rcases which with ⟨rfl, rfl⟩ | ⟨rfl, rfl⟩
    · exact ⟨putsBytes, stringService_puts, funext putsText_eq_flatMap⟩
    · exact ⟨putspBytes, stringService_putsp, funext putspText_eq_flatMap⟩
  have running : u.runState = s.runState := readsWords_leaves runState_of_memRead reads
  have output : u.output = s.output := readsWords_leaves output_of_memRead reads
  refine ⟨fun v read accepts => ?_, fun v read accepts => ?_, fun k fails before cut => ?_⟩
  · have ends := service.exec_of_terminator reads accepts read
    exact ⟨_, ends, (runState_of_memRead read).trans running,
      congrArg (· ++ _) ((output_of_memRead read).trans output), rfl, fun _ _ => rfl,
      service.frame ends⟩
  · have ends := service.exec_of_failing_read reads accepts read
    obtain ⟨⟨-, halted, -⟩, -, -, same, -⟩ := kbsrFailure_of_memRead read
    exact ⟨_, ends, halted, congrArg (· ++ _) (same.trans output), rfl, fun _ _ => rfl,
      service.frame ends⟩
  · rcases List.eq_nil_or_concat' ws with rfl | ⟨init, w, rfl⟩
    · exact absurd cut (Nat.not_lt_zero k)
    · rw [List.dropLast_concat] at before
      have ends := service.exec_of_output_cut reads fails before cut
      exact ⟨_, ends, rfl, congrArg (· ++ _) output, rfl, fun _ _ => rfl, service.frame ends⟩

end Sys2Proof.Machine
end

section
/-!
PUTS and PUTSP over strings that do not reach KBSR (R133, R135), whose reads return the cells and
leave the machine as it is; and every output that fails (R164).
-/
namespace Sys2Proof.Machine

variable {s : State} {a : Word} {n : Nat} {i : Instr} {bytesOf : Word → List Byte}

/-! ### Strings away from KBSR -/

theorem readsWords_of_plainWords (plain : plainWords s a n = true) :
    readsWords (stringWords s a n) s a s := by
  induction n generalizing a with
  | zero => rfl
  | succ n ih =>
    obtain ⟨⟨notKbsr, more⟩, rest⟩ :
        (a ≠ kbsrAddr ∧ s.cell a ≠ 0x0000#16) ∧ plainWords s (a + 1#16) n = true := by
      simpa [plainWords] using plain
    exact ⟨more, s, memRead_ne notKbsr s, ih rest⟩

/-- A string is plain Words and, behind them, a terminator away from KBSR. -/
theorem plainWords_of_isString (string : isString s a n = true) :
    plainWords s a n = true ∧ memRead (a + BitVec.ofNat 16 n) s = .done 0x0000#16 s := by
  induction n generalizing a with
  | zero =>
    obtain ⟨notKbsr, zero⟩ : a ≠ kbsrAddr ∧ s.cell a = 0x0000#16 := by
      simpa [isString] using string
    rw [BitVec.add_zero, memRead_ne notKbsr, zero]
    exact ⟨rfl, rfl⟩
  | succ n ih =>
    obtain ⟨here, rest⟩ : (a != kbsrAddr && s.cell a != 0x0000#16) = true ∧
        isString s (a + 1#16) n = true := Bool.and_eq_true_iff.mp string
    obtain ⟨plain, terminator⟩ := ih rest
    rw [add_ofNat_succ]
    exact ⟨Bool.and_eq_true_iff.mpr ⟨here, plain⟩, terminator⟩

theorem length_stringWords (s : State) (a : Word) (n : Nat) : (stringWords s a n).length = n := by
  induction n generalizing a with
  | zero => rfl
  | succ n ih => rw [stringWords, List.length_cons, ih]

theorem stringWords_succ (s : State) (a : Word) (n : Nat) :
    stringWords s a (n + 1) = stringWords s a n ++ [s.cell (a + BitVec.ofNat 16 n)] := by
  induction n generalizing a with
  | zero => rw [BitVec.add_zero]; rfl
  | succ n ih => rw [stringWords, ih, add_ofNat_succ a n]; rfl

theorem plainWords_of_succ (plain : plainWords s a (n + 1) = true) : plainWords s a n = true := by
  induction n generalizing a with
  | zero => rfl
  | succ n ih =>
    obtain ⟨here, rest⟩ := Bool.and_eq_true_iff.mp plain
    exact Bool.and_eq_true_iff.mpr ⟨here, ih rest⟩

namespace StringService

variable (service : StringService i bytesOf)
include service

/-- A string away from KBSR is written up to its terminator. -/
theorem exec_of_isString (string : isString s (s.reg serviceReg) n = true)
    (accepts : acceptsOutput s
      ((stringWords s (s.reg serviceReg) n).flatMap bytesOf).length = true) :
    exec i s = .next (s.link.wrote ((stringWords s (s.reg serviceReg) n).flatMap bytesOf)) := by
  obtain ⟨plain, terminator⟩ := plainWords_of_isString string
  exact service.exec_of_terminator (readsWords_of_plainWords plain) accepts
    (by rwa [length_stringWords])

/-- A string that the output device cuts before it reaches KBSR is written up to the cut. -/
theorem exec_of_plain_cut {k : Nat} (fails : s.outputFailsAfter = some k)
    (plain : plainWords s (s.reg serviceReg) n = true)
    (cut : k < ((stringWords s (s.reg serviceReg) n).flatMap bytesOf).length) :
    exec i s = .next ((s.link.wrote
      (((stringWords s (s.reg serviceReg) n).flatMap bytesOf).take k)).raise .hostIOError) := by
  induction n with
  | zero => exact absurd cut (Nat.not_lt_zero k)
  | succ n ih =>
    by_cases sooner : k < ((stringWords s (s.reg serviceReg) n).flatMap bytesOf).length
    · rw [stringWords_succ, List.flatMap_append,
        List.take_append_of_le_length (Nat.le_of_lt sooner)]
      exact ih (plainWords_of_succ plain) sooner
    · have reads := readsWords_of_plainWords plain
      rw [stringWords_succ] at reads cut ⊢
      exact service.exec_of_output_cut reads fails (Nat.le_of_not_lt sooner) cut

end StringService

/-- Settles O45: PUTS over a string away from KBSR, one byte a Word. -/
theorem putsWritesTheStringBeforeItsTerminator :
    Obligations.PutsWritesTheStringBeforeItsTerminator := by
  intro s n string accepts
  have text := putsText_eq_flatMap (stringWords s (s.reg serviceReg) n)
  have oneEach : (putsText (stringWords s (s.reg serviceReg) n)).length = n := by
    rw [putsText, List.length_map, length_stringWords]
  rw [← oneEach, text] at accepts
  exact ⟨_, stringService_puts.exec_of_isString string accepts, text ▸ rfl,
    trapFrame_link_wrote s _, rfl, rfl, rfl⟩

/-- Settles O46: PUTSP over a string away from KBSR. -/
theorem putspWritesTheBytesOfEachWord : Obligations.PutspWritesTheBytesOfEachWord := by
  intro s n bytes text string accepts
  rw [putspText_eq_flatMap] at text
  subst text
  exact ⟨_, stringService_putsp.exec_of_isString string accepts, rfl, trapFrame_link_wrote s _, rfl,
    rfl, rfl⟩

/-! ### An output that fails -/

/-- Settles O52: the services write up to the failure, after their link write, and end there; IN's
echo comes after its byte was taken. -/
theorem failingOutputKeepsWhatWasWritten : Obligations.FailingOutputKeepsWhatWasWritten := by
  intro s k fails
  have linked : s.link.outputFailsAfter = some k := fails
  have cutAfter (bytes : List Byte) : TrapFrame [linkReg] [] s
      ((s.link.wrote bytes).raise .hostIOError) := trapFrame_link_wrote s bytes
  refine ⟨fun atOnce => ?_, fun cut => ?_, fun cut => ?_, fun n b rest after all coming => ?_,
    fun n plain cut => ?_, fun n plain cut => ?_⟩
  · subst atOnce
    have failed : outWrite (lowByte (s.reg serviceReg)) s.link =
        .raised (s.link.raise .hostIOError) := outWrite_failing linked
    have ends := exec_out s
    rw [failed] at ends
    exact ⟨_, ends, rfl, rfl, rfl, trapFrame_link s, rfl⟩
  · have ends := exec_halt s
    rw [outWriteAll_failing linked cut] at ends
    exact ⟨_, ends, rfl, rfl, rfl, cutAfter _, rfl⟩
  · exact ⟨_, exec_in_of_prompt_cut fails cut, rfl, rfl, rfl, cutAfter _, rfl⟩
  · have prompted : acceptsOutput s s.config.inPrompt.length = true := by
      simp [acceptsOutput, fails, all]
    have nothingLeft : ((s.link.wrote s.config.inPrompt).setInput after).outputFailsAfter =
        some 0 := by simp [fails, all]
    have ends := exec_in_of_byte prompted (takeByte_of_byte_coming coming)
    rw [outWrite_failing nothingLeft] at ends
    exact ⟨_, ends, rfl, rfl, rfl, cutAfter s.config.inPrompt, rfl⟩
  · rw [putsText_eq_flatMap] at cut ⊢
    exact ⟨_, stringService_puts.exec_of_plain_cut fails plain cut, rfl, rfl, rfl, cutAfter _, rfl⟩
  · rw [putspText_eq_flatMap] at cut ⊢
    exact ⟨_, stringService_putsp.exec_of_plain_cut fails plain cut, rfl, rfl, rfl, cutAfter _, rfl⟩

end Sys2Proof.Machine
end

section
/-!
When PUTS and PUTSP end (U7, log 12): always without an endless supply or with an output that fails
some time, and not where no read can return 0x0000.
-/
namespace Sys2Proof.Machine

variable {s : State} {a ret : Word} {out : List Byte} {f : Fault} {i : Instr}
  {bytesOf : Word → List Byte}

/-! ### A walk that is cut has read as many Words as it was allowed -/

theorem memRead_ne_stuck (a : Word) (s : State) : memRead a s ≠ .stuck f := by
  by_cases address : a = kbsrAddr
  · subst address
    rcases keyboard_answers s with ⟨b, rest, key⟩ | key | ⟨rest, key⟩ | ⟨rest, key⟩
    · rw [memRead_kbsr_ready key]; exact nofun
    · rw [memRead_kbsr_none key]; exact nofun
    · rw [memRead_kbsr_fails key]; exact nofun
    · rw [memRead_kbsr_readFails key]; exact nofun
  · rw [memRead_ne address]; exact nofun

theorem acceptsOutput_of_wrote {bytes : List Byte} {n : Nat}
    (first : acceptsOutput s bytes.length = true) (later : acceptsOutput (s.wrote bytes) n = true) :
    acceptsOutput s (bytes.length + n) = true := by
  unfold acceptsOutput at *
  cases fails : s.outputFailsAfter <;> simp_all
  omega

/-- A device that does not accept all the bytes ends the operation (R164). -/
theorem outWriteAll_raised {bytes : List Byte} (h : acceptsOutput s bytes.length ≠ true) :
    ∃ t, outWriteAll bytes s = .raised t := by
  rcases outWriteAll_of_not_accepted (n := 0) (by simpa using h) with ⟨k, e⟩ | ⟨-, refused⟩
  · exact ⟨_, e⟩
  · exact absurd refused (by simp [acceptsOutput_zero])

/-- A walk without an end has read `n` Words, none of them the terminator, and written them all. -/
theorem readsWords_of_walkString_stuck {n : Nat}
    (walk : walkString bytesOf n a (s.serving ret out) = .stuck f) :
    ∃ ws u, ws.length = n ∧ readsWords ws s a u ∧
      acceptsOutput (s.serving ret out) (ws.flatMap bytesOf).length = true := by
  induction n generalizing s a out with
  | zero => exact ⟨[], s, rfl, rfl, acceptsOutput_zero _⟩
  | succ n ih =>
    cases read : memRead a s with
    | stuck e => exact absurd read (memRead_ne_stuck a s)
    | raised t => rw [walkString, memRead_serving, read] at walk; cases walk
    | done w t =>
      have same := outputFailsAfter_serving (ret := ret) (out := out)
        (outputFailsAfter_of_memRead read)
      by_cases more : w = 0x0000#16
      · rw [walkString, memRead_serving, read, more] at walk
        cases walk
      by_cases first : acceptsOutput (s.serving ret out) (bytesOf w).length = true
      · rw [walkString_of_read read more first] at walk
        obtain ⟨ws, u, count, reads, later⟩ := ih walk
        refine ⟨w :: ws, u, congrArg (· + 1) count, ⟨more, t, read, reads⟩, ?_⟩
        rw [← acceptsOutput_congr same] at first ⊢
        rw [List.flatMap_cons, List.length_append]
        exact acceptsOutput_of_wrote first (by rwa [State.wrote_serving])
      · rw [← acceptsOutput_congr same] at first
        obtain ⟨u, cut⟩ := outWriteAll_raised first
        rw [walkString, memRead_serving, read, Result.mapState, Result.bind_done, if_neg more,
          cut] at walk
        cases walk

/-- Without an endless supply, or with an output that fails some time, no walk is as long as
`stringReads` allows. -/
theorem StringService.exec_next (service : StringService i bytesOf)
    (h : noEndlessInput s = true ∨ s.outputFailsAfter ≠ none) : ∃ t, exec i s = .next t := by
  rw [service.exec_eq]
  cases walk : walkString bytesOf (stringReads s) (s.reg serviceReg) (s.serving s.pc []) with
  | done _ t => exact ⟨t, rfl⟩
  | raised t => exact ⟨t, rfl⟩
  | stuck f =>
    exfalso
    obtain ⟨ws, u, count, reads, accepts⟩ := readsWords_of_walkString_stuck walk
    unfold stringReads at count
    rcases h with finite | fails
    · have short := length_le_of_readsWords reads (.inl finite)
      have near := readsToKbsr_lt (s.reg serviceReg)
      omega
    · obtain ⟨k, fails⟩ := Option.ne_none_iff_exists'.mp fails
      have words := service.length_le_flatMap ws
      rw [acceptsOutput_serving_nil] at accepts
      have written : (ws.flatMap bytesOf).length ≤ k := by
        simpa [acceptsOutput, fails] using accepts
      rw [fails, Option.elim_some] at count
      omega

/-- Settles O48: every end of either service but the cut of its walk is a next state. -/
theorem stringServicesCompleteUnlessInputIsEndless :
    Obligations.StringServicesCompleteUnlessInputIsEndless := by
  intro s h
  obtain ⟨t, puts⟩ := stringService_puts.exec_next h
  obtain ⟨u, putsp⟩ := stringService_putsp.exec_next h
  have putsFrame := stringService_puts.frame puts
  have putspFrame := stringService_putsp.frame putsp
  exact ⟨⟨t, puts, putsFrame.1⟩, ⟨u, putsp, putspFrame.1⟩⟩

/-! ### No terminator anywhere -/

/-- No read can return 0x0000, now or later: KBSR always finds the byte `b`, no other cell holds
0x0000, and the output never fails. -/
structure NoTerminator (b : Byte) (s : State) : Prop where
  script : ∃ l, s.input = .endless b :: l
  accepting : s.outputFailsAfter = none
  cells : ∀ a, a ≠ kbsrAddr → s.cell a ≠ 0x0000#16

theorem zext8_ne_zero {b : Byte} (h : b ≠ 0x00#8) : zext8 b ≠ 0x0000#16 := by
  unfold zext8
  bv_omega

/-- A read returns a Word that is not the terminator; what KBSR's stores is not 0x0000 either. -/
theorem NoTerminator.memRead_more {b : Byte} (h : NoTerminator b s) (byte : b ≠ 0x00#8) (a : Word) :
    ∃ w t, memRead a s = .done w t ∧ w ≠ 0x0000#16 ∧ NoTerminator b t := by
  by_cases address : a = kbsrAddr
  · subst address
    obtain ⟨l, script⟩ := h.script
    refine ⟨_, _, memRead_kbsr_ready (readyByte_of_endless script), by decide, ⟨l, script⟩,
      h.accepting, fun c notStatus => ?_⟩
    by_cases data : c = kbdrAddr
    · rw [data, s.keyTaken_kbdr]
      exact zext8_ne_zero byte
    · rw [s.keyTaken_cells b s.input c (by simp [notStatus, data])]
      exact h.cells c notStatus
  · exact ⟨_, s, memRead_ne address s, h.cells a address, h⟩

theorem NoTerminator.walkString_stuck {b : Byte} (h : NoTerminator b s) (byte : b ≠ 0x00#8)
    (n : Nat) (a : Word) : walkString bytesOf n a s = .stuck .unterminatedString := by
  induction n generalizing s a with
  | zero => rfl
  | succ n ih =>
    obtain ⟨w, t, read, more, later⟩ := h.memRead_more byte a
    have accepts : acceptsOutput t (bytesOf w).length = true := by
      rw [acceptsOutput, later.accepting]
    have written : NoTerminator b (t.wrote (bytesOf w)) :=
      ⟨later.script, congrArg (Option.map _) later.accepting, later.cells⟩
    rw [walkString, read, Result.bind_done, if_neg more, outWriteAll_accepted accepts,
      Result.bind_done]
    exact ih written (a + 1#16)

/-- Settles O49: neither walk meets a terminator, however many reads it is allowed. -/
theorem stringWithoutTerminatorNeverCompletes :
    Obligations.StringWithoutTerminatorNeverCompletes := by
  intro s b rest byte script accepting cells
  have h : NoTerminator b s.link := ⟨⟨rest, script⟩, accepting, cells⟩
  rw [stringService_puts.runs, stringService_putsp.runs, h.walkString_stuck byte,
    h.walkString_stuck byte]
  exact ⟨rfl, rfl⟩

end Sys2Proof.Machine
end
